-- ==== Sys2Proof/Word.lean ====
section
/-! DEFINITION. The byte, the only bit vector the wire formats of chapter 11 need. -/

namespace Sys2Proof

/-- One byte of a frame or page (R181). -/
abbrev Byte := BitVec 8

end Sys2Proof
end

