-- ==== Sys2Proof/Syntax.lean ====
section
/-! DEFINITION. The commands the part takes, one constructor per row of spec/opcode_table.json, with the
operands the spec's rules read. Request arguments are the numbers and codes as received; the rules check them. -/

namespace Sys2Proof

/-- The five docks (00_scope.md, Docks). -/
inductive Dock | d1 | d2 | d3 | d4 | d5
deriving DecidableEq, Repr, Inhabited

/-- The five axis kinds, in the code order of section 11.6. -/
inductive AxisKind | slide | recline | tumble | well | headrest
deriving DecidableEq, Repr, Inhabited

/-- The unit kinds (00_scope.md, Unit kinds and axes). -/
inductive UnitKind | captain | centre | third
deriving DecidableEq, Repr, Inhabited

/-- The presence channels of a seat unit (chapter 8). -/
inductive Channel | cushion | back | lid
deriving DecidableEq, Repr, Inhabited

/-- One of the two latch lines of a dock. -/
inductive LatchLine | a | b
deriving DecidableEq, Repr, Inhabited

/-- A channel with a suppression timer: a seat channel or a strip electrode (R147, R162). -/
inductive ChanRef
  | seat (d : Dock) (ch : Channel)
  | strip (e : Fin 4)
deriving DecidableEq, Repr, Inhabited

/-- The eight order slots (R74). -/
inductive Slot | s0 | s1 | s2 | s3 | s4 | s5 | s6 | s7
deriving DecidableEq, Repr, Inhabited

/-- The seven settings records, in the table order of section 10.6. -/
inductive SettingsId | identifiers | geometry | dockTable | budget | limits | overrides | bindings
deriving DecidableEq, Repr, Inhabited

/-- A record of the Settings Store: a layout position or a settings record (section 10.6). -/
inductive RecId
  | layout (n : Nat)
  | settings (i : SettingsId)
deriving DecidableEq, Repr, Inhabited

/-- What every request frame carries beside its kind's arguments (R170, R181): the CAN identifier it arrives on,
tag, driver profile, and whether the frame is shorter than its kind's fixed fields. -/
structure ReqHdr where
  ident : Nat
  tag : Nat
  profile : Nat
  short : Bool
deriving DecidableEq, Repr, Inhabited

/-- An entry of a layout as received (R51, section 11.4): dock number, expected-kind code, (axis code, target value) pairs. -/
structure RawEntry where
  dock : Nat
  kind : Nat
  targets : List (Nat × Nat)
deriving DecidableEq, Repr, Inhabited

/-- The contents of a layout as received or stored (R58, R71). The label is its character bytes. -/
structure RawContents where
  label : List Nat
  owner : Nat
  urgency : Nat
  entries : List RawEntry
deriving DecidableEq, Repr, Inhabited

/-- A relative cell of a geometry cell list (R31): lane offset, column offset, tier. -/
structure RelCell where
  lane : Int
  col : Nat
  tier : Nat
deriving DecidableEq, Repr, Inhabited

/-- A station of a station table (R31). `flag` is WHOLE in a base table and RESTRICTED in a recline table. -/
structure Station where
  boundary : Nat
  cells : List RelCell
  flag : Bool
deriving DecidableEq, Repr, Inhabited

/-- The contents of a WRITE_GEOMETRY as received (R31): each table present or absent. -/
structure RawGeometry where
  reach : Option Nat
  base : Option (List Station)
  recline : Option (List Station)
  headrest : Option (List Station)
  fixed : Option (List RelCell)
deriving DecidableEq, Repr, Inhabited

/-- A placement as received (R33): lane code, origin column, mirror flag, allowed-kind code. -/
structure RawPlacement where
  lane : Nat
  origin : Nat
  mirror : Nat
  kind : Nat
deriving DecidableEq, Repr, Inhabited

/-- A gesture binding as received (R166): gesture code, zone, action code and the layout or dock number. -/
structure RawBinding where
  gesture : Nat
  zone : Option Nat
  action : Nat
  arg : Nat
deriving DecidableEq, Repr, Inhabited

/-- An identifier binding as received (R169, R178): request and response identifiers and class code. -/
structure RawIdent where
  request : Nat
  response : Nat
  cls : Nat
deriving DecidableEq, Repr, Inhabited

/-- The kinds of channel that carry thresholds of their own (R151, R162). -/
inductive ChanKind | cushion | back | lid | strip
deriving DecidableEq, Repr, Inhabited

/-- The items of SET_LIMITS (R178), with the value each carries. -/
inductive LimitWrite
  | blockWait (v : Nat)
  | currentFilter (v : Nat)
  | slideMargin (v : Nat)
  | axisMargin (v : Nat)
  | reverseDistance (v : Nat)
  | prox (k : ChanKind) (v : Nat)
  | touch (k : ChanKind) (v : Nat)
  | hysteresis (k : ChanKind) (v : Nat)
  | presenceFilter (v : Nat)
  | tuningBand (v : Nat)
  | noticeMode (code : Nat)
  | identifier (place : Nat) (b : Option RawIdent)
  | unknown (item : Nat)
deriving DecidableEq, Repr, Inhabited

/-- The owner filter of LIST_LAYOUTS (R57). -/
inductive OwnerFilter
  | all
  | shared
  | profile (n : Nat)
  | visible
  | unknown (code : Nat)
deriving DecidableEq, Repr, Inhabited

/-- The commands: one constructor per row of spec/opcode_table.json. -/
inductive Instr
  | powerOn (failing : List RecId)
  | softReset (h : ReqHdr)
  | softResetCompletion (failing : List RecId)
  | lookupLayout (h : ReqHdr) (number : Nat)
  | lookupLabel (h : ReqHdr) (label : List Nat)
  | listLayouts (h : ReqHdr) (filter : OwnerFilter)
  | lookupMatch (h : ReqHdr)
  | writeLayout (h : ReqHdr) (number : Nat) (contents : RawContents)
  | retireLayout (h : ReqHdr) (number : Nat)
  | invokeLayout (h : ReqHdr) (number : Nat) (generation : Option Nat) (urgency : Option Nat)
  | moveAxis (h : ReqHdr) (dock axis target : Nat) (urgency : Option Nat)
  | homing (h : ReqHdr) (dock : Nat) (axis : Option Nat)
  | cancelOrder (h : ReqHdr) (number : Nat)
  | cancelAll (h : ReqHdr)
  | lookupOrder (h : ReqHdr) (number : Nat) (part : Option Nat)
  | lookupPosture (h : ReqHdr) (dock : Nat) (part : Option Nat)
  | queryCells (h : ReqHdr) (lane : Nat)
  | reEnroll (h : ReqHdr) (dock : Nat)
  | writeGeometry (h : ReqHdr) (kind revision : Nat) (contents : Option RawGeometry)
  | writeDockTable (h : ReqHdr) (placements : List RawPlacement)
  | setOverride (h : ReqHdr) (kind axis param : Nat) (value : Option Nat)
  | setBudget (h : ReqHdr) (limit : Nat)
  | setLimits (h : ReqHdr) (w : LimitWrite)
  | writeBindings (h : ReqHdr) (bindings : List RawBinding)
  | reseed (h : ReqHdr) (dock channel : Nat)
  | reseedBaseline (h : ReqHdr) (dock axis : Nat)
  | ackRestart (h : ReqHdr)
  | badRequest (h : ReqHdr) (kind : Nat)
  | requestDiscarded (h : ReqHdr)
  | responseSend
  | noticeSend
  | vehicleStateFrame (bytes : List Byte)
  | vehicleStateStale
  | intrusionFrame (bytes : List Byte)
  | intrusionStale
  | networkSleepFrame
  | canWake
  | padWake
  | quietTimerExpiry
  | streamTimerExpiry (d : Dock)
  | latchClosed (d : Dock)
  | latchOpen (d : Dock) (line : LatchLine)
  | settleExpiry (d : Dock)
  | powerUpDelayExpiry (d : Dock)
  | pageLimitExpiry (d : Dock)
  | silenceExpiry (d : Dock)
  | holdExpiry (d : Dock)
  | pollRound
  | dockPollAnswered (d : Dock) (bytes : List Byte)
  | dockPollUnanswered (d : Dock)
  | fifthUnansweredPoll (d : Dock)
  | nodePage (d : Dock) (bytes : List Byte)
  | padPollAnswered (bytes : List Byte)
  | padPollUnanswered
  | padAbsent
  | blockWaitExpiry (slot : Slot) (index : Nat)
  | pauseGraceExpiry
  | startWindowExpiry (d : Dock)
  | grantWaitExpiry (d : Dock)
  | stallTimerExpiry (d : Dock)
  | referenceSuppressionExpiry (d : Dock) (axis : AxisKind)
  | presenceSuppressionExpiry (ch : ChanRef)
  | touchExpiry
  | layoutWriteBegin
  | layoutWriteComplete (readBack : Bool)
  | settingsWriteBegin
  | settingsWriteComplete (readBack : Bool)
  | latchWake (d : Dock) (line : LatchLine) (closed : Bool)
deriving DecidableEq, Repr

end Sys2Proof
end

