-- ==== Sys2Proof/WellFormed.lean ====
section
/-! DEFINITION. Which commands can arrive at all: every operand fits the field that carries it (R181, R182). -/

namespace Sys2Proof

/-- A number that fits one byte. -/
def fitsByte (n : Nat) : Bool := n ≤ 255

/-- A number that fits two bytes. -/
def fitsWord (n : Nat) : Bool := n ≤ 65535

/-- An optional one-byte field; 255 carries its absence (R181). -/
def fitsOptByte : Option Nat → Bool
  | none => true
  | some n => n ≤ 254

/-- Tag and profile are bytes of the request frame (R182). -/
def ReqHdr.wf (h : ReqHdr) : Bool := fitsByte h.tag && fitsByte h.profile

/-- A carried layout entry: nibbles for dock and kind, one target per bit of the target set (section 11.4). -/
def RawEntry.wf (e : RawEntry) : Bool :=
  e.dock ≤ 15 && e.kind ≤ 15 && e.targets.all fun t => t.1 ≤ 7 && fitsWord t.2

/-- Carried layout contents: 12 character bytes at most, a length byte, byte fields and at most 255 entries. -/
def RawContents.wf (c : RawContents) : Bool :=
  c.label.length ≤ 255 && c.label.all fitsByte && fitsByte c.owner && fitsByte c.urgency &&
    c.entries.length ≤ 255 && c.entries.all RawEntry.wf

/-- A CAN FD frame holds at most 64 bytes (section 11.2). -/
def fitsCanFrame (bs : List Byte) : Bool := bs.length ≤ 64

/-- A record identifier of the store (section 10.6). -/
def RecId.wf : RecId → Bool
  | .layout n => 1 ≤ n && n ≤ 24
  | .settings _ => true

/-- The kinds named in the table of R170 have codes 0 to 24; a BAD_REQUEST frame carries another. -/
def unknownKindCode (k : Nat) : Bool := 25 ≤ k && k ≤ 255

/-- Every operand of the command fits the field that carries it. -/
def Instr.wf : Instr → Bool
  | .powerOn f | .softResetCompletion f => f.all RecId.wf
  | .lookupLayout h n | .retireLayout h n | .queryCells h n | .reEnroll h n => h.wf && fitsByte n
  | .lookupLabel h l => h.wf && l.length ≤ 255 && l.all fitsByte
  | .listLayouts h _ | .lookupMatch h | .cancelAll h | .softReset h | .ackRestart h | .requestDiscarded h => h.wf
  | .writeLayout h n c => h.wf && fitsByte n && c.wf
  | .invokeLayout h n g u => h.wf && fitsByte n && (g.all fitsWord) && fitsOptByte u
  | .moveAxis h d a t u => h.wf && fitsByte d && fitsByte a && fitsWord t && fitsOptByte u
  | .homing h d a => h.wf && fitsByte d && fitsOptByte a
  | .cancelOrder h n => h.wf && fitsWord n
  | .lookupOrder h n p => h.wf && fitsWord n && fitsOptByte p
  | .lookupPosture h d p => h.wf && fitsByte d && fitsOptByte p
  | .writeGeometry h k r _ => h.wf && fitsByte k && fitsByte r
  | .writeDockTable h ps =>
    h.wf && ps.all fun p => fitsByte p.lane && fitsByte p.origin && fitsByte p.mirror && fitsByte p.kind
  | .setOverride h k a p v => h.wf && fitsByte k && fitsByte a && fitsByte p && v.all fitsWord
  | .setBudget h l => h.wf && fitsWord l
  | .setLimits h _ => h.wf
  | .writeBindings h bs => h.wf && bs.all fun b => fitsByte b.gesture && fitsByte b.action && fitsByte b.arg
  | .reseed h d c => h.wf && fitsByte d && fitsByte c
  | .reseedBaseline h d a => h.wf && fitsByte d && fitsByte a
  | .badRequest h k => h.wf && unknownKindCode k
  | .vehicleStateFrame bs | .intrusionFrame bs => fitsCanFrame bs
  | .dockPollAnswered _ bs | .nodePage _ bs | .padPollAnswered bs => bs.length ≤ 64
  | .blockWaitExpiry _ i => 1 ≤ i && i ≤ 20
  | .responseSend | .noticeSend | .vehicleStateStale | .intrusionStale | .networkSleepFrame | .canWake | .padWake
  | .quietTimerExpiry | .pollRound | .padPollUnanswered | .padAbsent | .pauseGraceExpiry | .touchExpiry
  | .layoutWriteBegin | .settingsWriteBegin => true
  | .streamTimerExpiry _ | .latchClosed _ | .latchOpen _ _ | .settleExpiry _ | .powerUpDelayExpiry _
  | .pageLimitExpiry _ | .silenceExpiry _ | .holdExpiry _ | .dockPollUnanswered _ | .fifthUnansweredPoll _
  | .startWindowExpiry _ | .grantWaitExpiry _ | .stallTimerExpiry _ => true
  | .referenceSuppressionExpiry _ _ | .presenceSuppressionExpiry _ => true
  | .layoutWriteComplete _ | .settingsWriteComplete _ => true
  | .latchWake _ _ _ => true

end Sys2Proof
end

