-- ==== Sys2Proof/Decode.lean ====
section
/-! DEFINITION. The commands a word spells. No row of spec/opcode_table.json gives bits ("fields" is empty in
every row), so no word spells a command. The byte layouts of chapter 11 are in Machine/Wire.lean, the request frames in
Machine/Frames.lean. -/

namespace Sys2Proof

/-- The command spelled by the low `nbits` bits of `w`: none, as the table gives no row any bits. -/
def decodeTableWord (_nbits _w : Nat) : Option Instr := none

end Sys2Proof
end

