-- ==== Sys2Proof/Config.lean ====
section
/-! DEFINITION. The free values: values the spec leaves open although the part goes on. Each is opaque, so no
proof can rest on what it is. -/

namespace Sys2Proof

/-- The class of a step at expansion (R82). -/
inductive StepClass | stowing | deploying
deriving DecidableEq, Repr, Inhabited

/-- The raw count taken from a Seat Link field that carries a number above 4095: R147 and R148 give 0 to 4095,
and no rule says what a larger number is taken as (log 20). -/
opaque Config.outOfRangeRaw : BitVec 16 → Fin 4096

/-- The class of a HOMING step that stands before a MOVE step: R82 classes the MOVE step and a HOMING step made
alone, and says nothing of this one (log 21). -/
opaque Config.pairedHomingClass : Dock → AxisKind → StepClass

/-- The byte of an ORDER notice that carries a back-off covered of more than 254 counts: section 11.2 gives the field one
byte, of which 255 is an absent one, and no rule says what a larger number is sent as (log 32). -/
opaque Config.wideCovered : Nat → BitVec 8

end Sys2Proof
end

