-- ==== Sys2Proof/Machine/Types.lean ====
section
/-! DEFINITION. The data the twelve blocks keep: enumerations, records and small tables, named as the spec names
them. What the blocks do with them is in the other files of this folder. -/

namespace Sys2Proof.Machine

open Sys2Proof

/-- A timer: the moment it expires, in the milliseconds of the model's clock, or stopped (00_scope.md, Time). -/
abbrev Timer := Option Nat

/-! ### Tables with one place per dock, slot or holder -/

/-- One `α` for each of D1 to D5. -/
structure PerDock (α : Type) where
  d1 : α
  d2 : α
  d3 : α
  d4 : α
  d5 : α
deriving DecidableEq, Repr

/-- One `α` for each of the eight order slots. -/
structure PerSlot (α : Type) where
  s0 : α
  s1 : α
  s2 : α
  s3 : α
  s4 : α
  s5 : α
  s6 : α
  s7 : α
deriving DecidableEq, Repr

/-- The owners of cells, in holder order D1 to D5, FRONT_L, FRONT_R (section 2.1). -/
inductive Holder
  | dock (d : Dock)
  | frontL
  | frontR
deriving DecidableEq, Repr, Inhabited

/-- One `α` for each holder. -/
structure PerHolder (α : Type) where
  docks : PerDock α
  frontL : α
  frontR : α
deriving DecidableEq, Repr

/-! ### The cabin volume -/

/-- The lanes L, C and R, numbered 0, 1, 2 (section 2.1). -/
inductive Lane | left | centre | right
deriving DecidableEq, Repr, Inhabited

/-- A cell of the map: lane, column 0 to 15, tier 0 to 5 (section 2.1). -/
structure Cell where
  lane : Lane
  col : Fin 16
  tier : Fin 6
deriving DecidableEq, Repr, Inhabited

/-- A set of cells, one bit per cell in the manner of R181's sets; it is read through `CellSet.mem` alone. -/
structure CellSet where
  bits : BitVec 288
deriving DecidableEq, Repr

/-- A live Geometry Table entry (R31). -/
structure GeomEntry where
  kind : UnitKind
  revision : Nat
  reach : Option Nat
  base : List Station
  recline : List Station
  headrest : Option (List Station)
  fixed : List RelCell
deriving DecidableEq, Repr

/-- A placement of the Dock Table (R33). -/
structure Placement where
  lane : Lane
  origin : Nat
  mirror : Bool
  kind : UnitKind
deriving DecidableEq, Repr

/-- The placement copy of a dock record, with its envelope (R1). -/
structure PlacementCopy where
  place : Placement
  envelope : CellSet
deriving DecidableEq, Repr

/-- The Clearance Map: holder of each of the 288 cells in cell order, overlap list per holder, reservation per dock (R25). -/
structure CellMap where
  cells : List (Option Holder)
  listed : PerHolder CellSet
  reserved : PerDock (Option CellSet)
deriving DecidableEq, Repr

/-! ### Requests and responses -/

/-- Requester classes, in the order of R169. -/
inductive ReqClass | body | access | gateway | restraint | service
deriving DecidableEq, Repr, Inhabited

/-- Outcome codes, in the order of section 11.6. -/
inductive Code
  | ok | notFound | refusedAccess | badRequest | badArgument | busy | poolFull | tableFull | duplicateLabel
  | protected_ | staleGeneration | infeasible | dockNotReady | notParked
deriving DecidableEq, Repr, Inhabited

/-- A response waiting to be sent (R170). `restarted` is the restart indication at its building (R174). -/
structure Response where
  ident : Nat
  kind : Nat
  tag : Nat
  code : Code
  detail : Option Nat
  restarted : Bool
  data : List Byte
deriving DecidableEq, Repr

/-- What a rule of a request kind decides: outcome code, detail code and data (R170 step 4). -/
structure Answer where
  code : Code
  detail : Option Nat := none
  data : List Byte := []
deriving DecidableEq, Repr

/-- A CAN frame the part sends: its identifier and bytes (section 11.2). -/
structure CanFrame where
  ident : Nat
  bytes : List Byte
deriving DecidableEq, Repr

/-- Urgency of an order (R76). -/
inductive Urgency | comfort | egress
deriving DecidableEq, Repr, Inhabited

/-! ### Layouts -/

/-- The kind an entry expects (R51): a unit kind, or ANY. -/
inductive Expected
  | only (k : UnitKind)
  | any
deriving DecidableEq, Repr

/-- An entry of a live record: its targets in the axis order of R51. -/
structure Entry where
  dock : Dock
  expected : Expected
  targets : List (AxisKind × Nat)
deriving DecidableEq, Repr

/-- Validation states (R63). -/
inductive Validation
  | feasible
  | partial_
  | infeasible (lo hi : Dock)
  | noMatch
deriving DecidableEq, Repr

/-- Store states (section 3.7). -/
inductive StoreState | stored | pending | volatile
deriving DecidableEq, Repr

/-- A live layout record (R50). `owner` 0 is SHARED, 1 to 4 a profile. -/
structure LayoutRec where
  number : Nat
  label : List Nat
  owner : Nat
  generation : Nat
  urgency : Urgency
  entries : List Entry
  validation : Validation
  store : StoreState
deriving DecidableEq, Repr

/-- The Layout Table: live records in number order, the current-layout match, the dirty set in number order (R50, R69). -/
structure LayoutTable where
  live : List LayoutRec
  match_ : Option Nat
  dirty : List Nat
deriving DecidableEq, Repr

/-- A stored layout position that is not empty (R70, R71). -/
structure StoredLayout where
  number : Nat
  generation : Nat
  contents : RawContents
deriving DecidableEq, Repr

/-! ### Orders and steps -/

inductive OrderOrigin
  | cls (c : ReqClass)
  | cargoStrip
deriving DecidableEq, Repr

inductive OrderKind | arrange | single | homing | jog
deriving DecidableEq, Repr, Inhabited

inductive OrderState | active | paused | done | failed | cancelled | superseded
deriving DecidableEq, Repr, Inhabited

inductive StepKind | move | homing | jog
deriving DecidableEq, Repr, Inhabited

inductive StepState
  | pending | claiming | powering | starting | running | stopping | reversing | done | failed | skipped
deriving DecidableEq, Repr, Inhabited

/-- Step failure reasons, in the code order of section 11.6. -/
inductive Reason
  | blockedDock | blockedExternal | blockedObject | occupied | noPower | noMotion | obstructed | driveFault
  | linkLost | unitRemoved | vehicleMoving | referenceFault
deriving DecidableEq, Repr, Inhabited

/-- Noted blockers (R77). -/
inductive Blocker
  | dock (d : Dock)
  | external (h : Holder)
  | object (ch : Channel)
  | referenceWait
deriving DecidableEq, Repr

inductive StopCause | cancel | supersede | pause | release
deriving DecidableEq, Repr, Inhabited

/-- Causes of an obstruction (R144). -/
inductive ObstCause | current | speed | stall | foldPath
deriving DecidableEq, Repr, Inhabited

/-- The obstruction record (R144). -/
structure Obstruction where
  cause : ObstCause
  position : Nat
  station : Nat
  filtered : Option Nat
  baseline : Nat
  margin : Nat
  channel : Option Channel
  backOff : Nat
  covered : Nat
deriving DecidableEq, Repr

/-- A step record (R77), with the fold mark of R89, the start of the claimed move that R45 computes again, and the
obstruction field of R144. -/
structure Step where
  index : Nat
  dock : Dock
  axis : AxisKind
  kind : StepKind
  target : Nat
  cls : StepClass
  state : StepState
  blocker : Option Blocker
  waitStart : Option Nat
  holds : Bool
  stopCause : Option StopCause
  failure : Option (Reason × Bool)
  fold : Bool
  claimFrom : Nat
  obstruction : Option Obstruction
deriving DecidableEq, Repr

/-- The first failure of an order (R76). -/
structure FirstFailure where
  dock : Dock
  axis : AxisKind
  reason : Reason
  reverseIncomplete : Bool
deriving DecidableEq, Repr

/-- An order record (R76). -/
structure Order where
  slot : Slot
  number : Nat
  origin : OrderOrigin
  kind : OrderKind
  layout : Option (Nat × Nat)
  urgency : Urgency
  steps : List Step
  state : OrderState
  cancelTaken : Bool
  superseded : List Dock
  firstFailure : Option FirstFailure
deriving DecidableEq, Repr

/-- A step, named by its order's number and its index (R105, R121). -/
structure StepRef where
  order : Nat
  index : Nat
deriving DecidableEq, Repr

/-- The Order Pool (R74, R75, R98). A slot's record is the order it holds or, once that has ended, its final record. -/
structure Pool where
  recs : PerSlot (Option Order)
  free : List Slot
  active : List Slot
  next : Nat
  grace : Timer
deriving DecidableEq, Repr

/-! ### Drive budget -/

/-- An entry of the request set (R105). -/
structure Request where
  step : StepRef
  level : Nat
  amount : Nat
  wait : Nat
deriving DecidableEq, Repr

/-- A record of the grant list (R106). -/
structure Grant where
  dock : Dock
  step : StepRef
  level : Nat
  amount : Nat
deriving DecidableEq, Repr

/-- The Drive Budget Arbiter (R103, R105 to R107) and the start windows of R110. -/
structure Arbiter where
  budget : Nat
  requests : PerDock (Option Request)
  grants : List Grant
  pointer1 : Dock
  pointer0 : Dock
  due0 : Bool
  head : Option Dock
  window : PerDock Timer
deriving DecidableEq, Repr

/-! ### Axes in motion -/

inductive RefState | referenced | unreferenced | referenceFault
deriving DecidableEq, Repr, Inhabited

inductive DriveCond | idle | driven | settling
deriving DecidableEq, Repr, Inhabited

inductive Direction | increase | decrease
deriving DecidableEq, Repr, Inhabited

/-- The segments of a move (R122). -/
inductive Segment | rampUp | cruise | rampDown | creep
deriving DecidableEq, Repr, Inhabited

/-- The four profile parameters (R119, R120). -/
structure Profile where
  ramp : Nat
  creep : Nat
  creepSpeed : Nat
  speed : Nat
deriving DecidableEq, Repr

/-- The override place of a pair of unit kind and axis kind (R120). -/
structure Override where
  unit : UnitKind
  axis : AxisKind
  ramp : Option Nat
  creep : Option Nat
  creepSpeed : Option Nat
  speed : Option Nat
deriving DecidableEq, Repr

/-- The watch record of a move (R135), with the state of its back-off (R139, R140). `backing` is absent outside
REVERSING; in it, `first` marks that the braked first frame is still to come, `fresh` that the next frame is the
first reverse-driven one. -/
structure Watch where
  beta : Nat
  margin : Nat
  reverse : Nat
  filtered : Option Int
  judging : Bool
  currentCount : Nat
  speedCount : Nat
  previous : Option (Nat × Nat)
  sums : List (Nat × Nat)
  occupiedSeen : Bool
  obstruction : Option Obstruction
  reverseEnd : Option Int
  reverseFirst : Bool
  reverseFresh : Bool
  reverseSpeed : Nat
deriving DecidableEq, Repr

/-- The stop length, stop setpoint and the tracked position at entry to STOPPING (R128). -/
structure StopPlan where
  length : Nat
  setpoint : Nat
  origin : Int
deriving DecidableEq, Repr

/-- The move record (R121, R122) with its watch record. -/
structure Move where
  step : StepRef
  kind : StepKind
  start : Nat
  target : Nat
  dir : Direction
  distance : Nat
  creepEff : Nat
  rem : Nat
  rampEff : Nat
  cruise : Nat
  profile : Profile
  lastSetpoint : Nat
  stall : Timer
  runLength : Nat
  stop : Option StopPlan
  watch : Watch
deriving DecidableEq, Repr

/-- An axis: the Seat Roster's axis record (R19), the Motion Generator's position record (R114) and the
Obstruction Monitor's baselines (R136). -/
structure Axis where
  kind : AxisKind
  travel : Nat
  pitch : Nat
  rated : Nat
  maxSpeed : Nat
  nominal : Nat
  stallThreshold : Nat
  count : Nat
  overrun : Nat
  nodeCount : Nat
  drift : Int
  ref : RefState
  faultTime : Option Nat
  suppression : Timer
  enabled : Bool
  cond : DriveCond
  move : Option Move
  auto : Profile
  baselines : List Nat
  reseed : Bool
deriving DecidableEq, Repr

/-- The motor command of a drive frame (R14, section 11.5). -/
inductive MotorCmd
  | brake
  | drive (axis : Nat) (dir : Direction) (setpoint : Nat)
deriving DecidableEq, Repr, Inhabited

/-! ### Presence channels -/

inductive ChanState | none | prox | touch | tuning | fault
deriving DecidableEq, Repr, Inhabited

inductive ChanFault | saturated | compLow | compHigh | outOfBand
deriving DecidableEq, Repr, Inhabited

/-- A channel record (R147) or electrode record (R162). -/
structure Chan where
  kind : ChanKind
  state : ChanState
  raw : Option Nat
  filtered : Option Nat
  ref16 : Option Nat
  delta : Nat
  proxRise : Nat
  touchRise : Nat
  touchFall : Nat
  proxFall : Nat
  comp : Nat
  search : Nat
  adjusted : Nat
  fault : Option ChanFault
  clean : Nat
  suppression : Timer
  retune : Bool
deriving DecidableEq, Repr

inductive Occupancy | none | occupied | child | unknown
deriving DecidableEq, Repr, Inhabited

/-! ### Dock records -/

inductive DockState | empty | seating | enrolling | ready | silent | faulted | vacating
deriving DecidableEq, Repr, Inhabited

inductive SeatOrigin | fresh | relatch
deriving DecidableEq, Repr, Inhabited

inductive DockFault | noResponse | pageSequence | kindNotAllowed | unknownGeometry | axisMismatch
deriving DecidableEq, Repr, Inhabited

inductive Lamp | off | on | blinkSlow | blinkFast
deriving DecidableEq, Repr, Inhabited

inductive Attention
  | none
  | wait (order : Nat)
  | obstructed
deriving DecidableEq, Repr

/-- The BASE page's fields (section 11.5); also the unit identity (R1, R19). -/
structure Identity where
  kind : UnitKind
  revision : Nat
  serial : Nat
  axisCount : Nat
  channels : List Channel
  trust : Bool
deriving DecidableEq, Repr

/-- The fields of an AXIS page (section 11.5). -/
structure AxisPage where
  kind : AxisKind
  travel : Nat
  pitch : Nat
  rated : Nat
  maxSpeed : Nat
  nominal : Nat
  stallThreshold : Nat
  stored : Nat
deriving DecidableEq, Repr

/-- The node page the exchange record expects next; `ended` once the exchange is over. -/
inductive PageWanted | base | axis | acknowledge | ended
deriving DecidableEq, Repr, Inhabited

/-- The exchange record (R1), with the Geometry Table entry the verdict was decided with (R12, R18). -/
structure Exchange where
  toggle : Bool
  wanted : PageWanted
  base : Option Identity
  pages : List AxisPage
  entry : Option GeomEntry
deriving DecidableEq, Repr

/-- The switches field: handle PULLED, child anchor LATCHED (R1). -/
structure Switches where
  pulled : Bool
  latched : Bool
deriving DecidableEq, Repr

/-- A dock record (R1), with the rejected verdict it owes (R20), the silence timer it owes after a wake (R24), its
motor command (R14), its channel records (R147) and its occupancy (R158). -/
structure DockRec where
  state : DockState
  origin : Option SeatOrigin
  placement : Option PlacementCopy
  fault : Option DockFault
  exchange : Option Exchange
  verdictDue : Option DockFault
  identity : Option Identity
  geometry : Option GeomEntry
  axes : List Axis
  switches : Option Switches
  unanswered : Nat
  silenceAxis : Option AxisKind
  attention : Attention
  lamp : Lamp
  power : Bool
  settle : Timer
  powerUp : Timer
  pageLimit : Timer
  silence : Timer
  hold : Timer
  silenceOwed : Bool
  command : MotorCmd
  chans : List Chan
  occupancy : Occupancy
deriving DecidableEq, Repr

/-! ### Notices -/

/-- Gestures (R164), in the order of the binding table's field. -/
inductive Gesture | tap | flickFwd | flickRear | swipeHold
deriving DecidableEq, Repr, Inhabited

/-- The content of a STRIP notice (R167): gesture, zone or direction, start position, binding index, outcome, detail. -/
structure StripInfo where
  gesture : Gesture
  zone : Nat
  start : Nat
  binding : Nat
  code : Code
  detail : Option Nat
deriving DecidableEq, Repr

/-- Notice subjects (R172). A REFERENCE subject names its axis by its index in declaration order (R182). -/
inductive Subject
  | posture (d : Dock)
  | dock (d : Dock)
  | order (s : Slot)
  | layout (n : Nat)
  | store (r : RecId)
  | reference (d : Dock) (axis : Nat)
  | strip
deriving DecidableEq, Repr

/-- Notice indications (section 11.6) with the value each carries. -/
inductive Indication
  | retired | writeFailed | restored | lost | homed
  | corrected (e : Nat)
  | fault (v : Nat)
  | padPresent | padAbsent
  | refused (i : StripInfo)
  | nothingToDo (i : StripInfo)
deriving DecidableEq, Repr

/-- An entry of the pending-notice set: a subject and the last indication given for it (R172). -/
structure Notice where
  subject : Subject
  indication : Option Indication
deriving DecidableEq, Repr

/-! ### Settings -/

/-- A binding place of the identifier record (R169). -/
structure IdentBinding where
  request : Nat
  response : Nat
  cls : ReqClass
deriving DecidableEq, Repr

/-- The identifier record (R169): 16 places and four fixed identifiers. -/
structure IdentRecord where
  places : List (Option IdentBinding)
  notice : Nat
  vehicle : Nat
  intrusion : Nat
  sleep : Nat
deriving DecidableEq, Repr

/-- The thresholds of one kind of channel (R151, R162). -/
structure Thresholds where
  prox : Nat
  touch : Nat
  hysteresis : Nat
deriving DecidableEq, Repr

/-- The LIMITS record (section 10.6). `stream` is the notice mode STREAM_WHILE_MOVING. -/
structure Limits where
  blockWait : Nat
  currentFilter : Nat
  slideMargin : Nat
  axisMargin : Nat
  reverseDistance : Nat
  cushion : Thresholds
  back : Thresholds
  lid : Thresholds
  strip : Thresholds
  presenceFilter : Nat
  tuningBand : Nat
  stream : Bool
deriving DecidableEq, Repr

/-- The action of a binding (R166). -/
inductive Action
  | invoke (layout : Nat)
  | toggle (d : Dock)
  | jog (d : Dock)
deriving DecidableEq, Repr

/-- A gesture binding (R166). -/
structure Binding where
  gesture : Gesture
  zone : Option Nat
  action : Action
deriving DecidableEq, Repr

/-- The seven settings records (section 10.6). -/
structure Settings where
  identifiers : IdentRecord
  geometry : List GeomEntry
  dockTable : PerDock Placement
  budget : Nat
  limits : Limits
  overrides : List Override
  bindings : List Binding
deriving DecidableEq, Repr

/-! ### The store -/

/-- The copied contents of a settings record (R177). -/
inductive SettingsCopy
  | identifiers (r : IdentRecord)
  | geometry (g : List GeomEntry)
  | dockTable (t : PerDock Placement)
  | budget (b : Nat)
  | limits (l : Limits)
  | overrides (o : List Override)
  | bindings (b : List Binding)
deriving DecidableEq, Repr

/-- A write in progress with the copy it runs on (R70, R177). -/
inductive Writing
  | layout (n : Nat) (copy : Option StoredLayout)
  | settings (copy : SettingsCopy)
deriving DecidableEq, Repr

/-- The nonvolatile memory: stored copies, and the records whose stored copy fails its check. -/
structure Nonvolatile where
  settings : Settings
  layouts : List StoredLayout
  bad : List RecId
deriving DecidableEq, Repr

/-- The Settings Store (R177). -/
structure Store where
  nv : Nonvolatile
  due : List SettingsId
  geometryBusy : Bool
  dockTableBusy : Bool
  writing : Option Writing
deriving DecidableEq, Repr

/-! ### Strip, link and port -/

inductive TouchPhase | touching | held | expired
deriving DecidableEq, Repr, Inhabited

/-- The touch record outside IDLE (R164). -/
structure Touch where
  phase : TouchPhase
  startTime : Nat
  startPos : Nat
  position : Nat
  excursion : Nat
  elapsed : Nat
deriving DecidableEq, Repr

/-- The pad record (R161) and the touch record (R164; absent when IDLE). -/
structure Pad where
  present : Bool
  unanswered : Nat
  electrodes : List Chan
  touch : Option Touch
deriving DecidableEq, Repr

/-- The jog record (R168). -/
structure Jog where
  order : Nat
  dock : Dock
deriving DecidableEq, Repr

/-- A slot of a poll round (R13). -/
inductive LinkSlot
  | dock (d : Dock)
  | pad
deriving DecidableEq, Repr

/-- The Seat Link Controller's round (R13, R14, R16): the slots still to be visited, the first one waiting for its
answer; the next period boundary; the answer limit; the command last sent to each dock; the frames just sent. -/
structure Link where
  left : List LinkSlot
  due : Bool
  boundary : Nat
  answerBy : Timer
  sent : PerDock MotorCmd
  tx : List (List Byte)
deriving DecidableEq, Repr

inductive Gear | park | reverse | neutral | drive | other
deriving DecidableEq, Repr, Inhabited

inductive PowerState | awake | doze | sleep
deriving DecidableEq, Repr, Inhabited

/-- The Vehicle Network Port (R170, R171, R174 to R176, R180). `fresh` is the vehicle-state freshness timer, running
while the frames are fresh; `resetting` is set from the taking of SOFT_RESET to the reset. -/
structure Port where
  queue : List Response
  lost : Nat
  restarted : Bool
  speed : Nat
  gear : Gear
  voltage : Nat
  fresh : Timer
  parked : Bool
  power : PowerState
  quiet : Timer
  sleepHeld : Bool
  resetting : Bool
  tx : List CanFrame
deriving DecidableEq, Repr

/-! ### What blocks tell one another inside one command -/

/-- A status frame of a dock (section 11.5): counts of axes 0 to 3, motor current, fault flags, switches, raw counts. -/
structure StatusFrame where
  counts : List Nat
  current : Nat
  faults : Bool
  switches : Switches
  raws : List Nat
deriving DecidableEq, Repr

/-- What one block has still to tell another inside the present command. -/
inductive Task
  /-- R91: an arrival on which every step in CLAIMING of every ACTIVE order makes an attempt. -/
  | retryClaims
  /-- R90: one claim attempt of a step. -/
  | attempt (r : StepRef)
  /-- R88: the first PENDING steps of a dock are tested. -/
  | testDock (d : Dock)
  /-- R105: a step in POWERING makes its request. -/
  | request (r : StepRef)
  /-- R108: an arbitration pass. -/
  | pass
  /-- R113: the grant of a step whose motion has ended is released. -/
  | release (r : StepRef)
  /-- R121: a move that needs no motion reports arrival at its start. -/
  | arriveAtOnce (d : Dock)
  /-- R143: the fold-path channel is read in the event of a grant. -/
  | foldAtGrant (d : Dock)
  /-- R128: a STOPPING step without motion ends its ramp-down in the same event. -/
  | endStopping (d : Dock)
  /-- R159: a changed occupancy is told. -/
  | occupancyTold (d : Dock)
  /-- R156: a changed seat channel is told. -/
  | channelTold (d : Dock) (ch : Channel)
  /-- R104: the effective budget is recomputed to a value. -/
  | budget (e : Nat)
  /-- R98. -/
  | parkedLost
  /-- R99. -/
  | parkedBack
  /-- R125 step 6 and R137: the setpoint and the judging of a frame of a step's move. `first` marks the frame of the
  first count change, `reversing` that the step was REVERSING as the frame came, `change` is the driven axis's change. -/
  | judge (d : Dock) (r : StepRef) (f : StatusFrame) (first reversing : Bool) (change : Int)
deriving DecidableEq, Repr

end Sys2Proof.Machine
end

