-- ==== Sys2Proof/Machine/Data.lean ====
section
/-! DEFINITION. Numbers, orders and accessors of the finite types and of the tables with one place per dock, slot
or holder; and the arithmetic words of 00_scope.md (rounded down, rounded up, truncated, clamped). -/

namespace Sys2Proof

open Machine

/-! ### Arithmetic (00_scope.md, Arithmetic) -/

/-- Quotient rounded up. -/
def Machine.ceilDiv (a b : Nat) : Nat := (a + b - 1) / b

/-- Clamped to a range. -/
def Machine.clampTo (lo hi v : Nat) : Nat := max lo (min hi v)

/-- Distance between two numbers. -/
def Machine.absDiff (a b : Nat) : Nat := (a - b) + (b - a)

/-! ### Docks -/

def Dock.all : List Dock := [.d1, .d2, .d3, .d4, .d5]

def Dock.num : Dock → Nat
  | .d1 => 1 | .d2 => 2 | .d3 => 3 | .d4 => 4 | .d5 => 5

def Dock.ofNum? : Nat → Option Dock
  | 1 => some .d1 | 2 => some .d2 | 3 => some .d3 | 4 => some .d4 | 5 => some .d5
  | _ => none

/-- The docks that follow `d` in circular order, ending with `d` itself (R107). -/
def Dock.after : Dock → List Dock
  | .d1 => [.d2, .d3, .d4, .d5, .d1]
  | .d2 => [.d3, .d4, .d5, .d1, .d2]
  | .d3 => [.d4, .d5, .d1, .d2, .d3]
  | .d4 => [.d5, .d1, .d2, .d3, .d4]
  | .d5 => [.d1, .d2, .d3, .d4, .d5]

namespace Machine.PerDock

variable {α : Type}

def rep (a : α) : PerDock α := ⟨a, a, a, a, a⟩

def get (p : PerDock α) : Dock → α
  | .d1 => p.d1 | .d2 => p.d2 | .d3 => p.d3 | .d4 => p.d4 | .d5 => p.d5

def set (p : PerDock α) (d : Dock) (a : α) : PerDock α :=
  match d with
  | .d1 => { p with d1 := a }
  | .d2 => { p with d2 := a }
  | .d3 => { p with d3 := a }
  | .d4 => { p with d4 := a }
  | .d5 => { p with d5 := a }

def map {β : Type} (f : α → β) (p : PerDock α) : PerDock β := ⟨f p.d1, f p.d2, f p.d3, f p.d4, f p.d5⟩

/-- The table whose place for `d` is `f d`. -/
def ofFn (f : Dock → α) : PerDock α := ⟨f .d1, f .d2, f .d3, f .d4, f .d5⟩

end Machine.PerDock

/-! ### Slots -/

def Slot.all : List Slot := [.s0, .s1, .s2, .s3, .s4, .s5, .s6, .s7]

def Slot.num : Slot → Nat
  | .s0 => 0 | .s1 => 1 | .s2 => 2 | .s3 => 3 | .s4 => 4 | .s5 => 5 | .s6 => 6 | .s7 => 7

namespace Machine.PerSlot

variable {α : Type}

def rep (a : α) : PerSlot α := ⟨a, a, a, a, a, a, a, a⟩

def get (p : PerSlot α) : Slot → α
  | .s0 => p.s0 | .s1 => p.s1 | .s2 => p.s2 | .s3 => p.s3 | .s4 => p.s4 | .s5 => p.s5 | .s6 => p.s6 | .s7 => p.s7

def set (p : PerSlot α) (s : Slot) (a : α) : PerSlot α :=
  match s with
  | .s0 => { p with s0 := a }
  | .s1 => { p with s1 := a }
  | .s2 => { p with s2 := a }
  | .s3 => { p with s3 := a }
  | .s4 => { p with s4 := a }
  | .s5 => { p with s5 := a }
  | .s6 => { p with s6 := a }
  | .s7 => { p with s7 := a }

end Machine.PerSlot

/-! ### Holders -/

/-- The holders in holder order, D1 to D5, FRONT_L, FRONT_R (section 2.1). -/
def Machine.Holder.all : List Holder := [.dock .d1, .dock .d2, .dock .d3, .dock .d4, .dock .d5, .frontL, .frontR]

/-- Holder numbers 1 to 7 (section 2.1). -/
def Machine.Holder.num : Holder → Nat
  | .dock d => d.num
  | .frontL => 6
  | .frontR => 7

namespace Machine.PerHolder

variable {α : Type}

def rep (a : α) : PerHolder α := ⟨.rep a, a, a⟩

def get (p : PerHolder α) : Holder → α
  | .dock d => p.docks.get d
  | .frontL => p.frontL
  | .frontR => p.frontR

def set (p : PerHolder α) (h : Holder) (a : α) : PerHolder α :=
  match h with
  | .dock d => { p with docks := p.docks.set d a }
  | .frontL => { p with frontL := a }
  | .frontR => { p with frontR := a }

/-- The table whose place for `h` is `f h`. -/
def ofFn (f : Holder → α) : PerHolder α := ⟨.ofFn fun d => f (.dock d), f .frontL, f .frontR⟩

end Machine.PerHolder

/-! ### Kinds and their codes (section 11.6; where it gives no code, the order of the owning rule's table, R181) -/

def AxisKind.code : AxisKind → Nat
  | .slide => 0 | .recline => 1 | .tumble => 2 | .well => 3 | .headrest => 4

def AxisKind.ofCode? : Nat → Option AxisKind
  | 0 => some .slide | 1 => some .recline | 2 => some .tumble | 3 => some .well | 4 => some .headrest
  | _ => none

def UnitKind.code : UnitKind → Nat
  | .captain => 0 | .centre => 1 | .third => 2

/-- The unit kind of a code (section 11.6). 3, which the shared row of kinds gives ANY, is no unit kind: DEDUCED, log 69. -/
def UnitKind.ofCode? : Nat → Option UnitKind
  | 0 => some .captain | 1 => some .centre | 2 => some .third
  | _ => none

/-- The axes of a unit kind, in declaration order (00_scope.md). -/
def UnitKind.axes : UnitKind → List AxisKind
  | .captain => [.slide, .recline, .tumble, .headrest]
  | .centre => [.slide, .recline, .tumble]
  | .third => [.recline, .well, .headrest]

/-- The base axis of a unit kind (00_scope.md, Terms). -/
def UnitKind.baseAxis : UnitKind → AxisKind
  | .captain | .centre => .tumble
  | .third => .well

def Channel.code : Channel → Nat
  | .cushion => 0 | .back => 1 | .lid => 2

def Channel.ofCode? : Nat → Option Channel
  | 0 => some .cushion | 1 => some .back | 2 => some .lid
  | _ => none

/-- The record kind of a seat channel. -/
def Channel.kind : Channel → ChanKind
  | .cushion => .cushion | .back => .back | .lid => .lid

/-- The seat channel of a record kind; a strip electrode is none. -/
def ChanKind.seat? : ChanKind → Option Channel
  | .cushion => some .cushion | .back => some .back | .lid => some .lid
  | .strip => none

def Machine.Lane.num : Lane → Nat
  | .left => 0 | .centre => 1 | .right => 2

def Machine.Lane.ofNum? : Nat → Option Lane
  | 0 => some .left | 1 => some .centre | 2 => some .right
  | _ => none

def Machine.ReqClass.ofCode? : Nat → Option ReqClass
  | 0 => some .body | 1 => some .access | 2 => some .gateway | 3 => some .restraint | 4 => some .service
  | _ => none

def Machine.Urgency.code : Urgency → Nat
  | .comfort => 0 | .egress => 1

def Machine.Urgency.ofCode? : Nat → Option Urgency
  | 0 => some .comfort | 1 => some .egress
  | _ => none

/-- The arbitration level of an urgency (R76, R105). -/
def Machine.Urgency.level : Urgency → Nat := Urgency.code

/-- STARTING, RUNNING, STOPPING and REVERSING are the states in motion (R77). -/
def Machine.StepState.inMotion : StepState → Bool
  | .starting | .running | .stopping | .reversing => true
  | _ => false

/-- DONE, FAILED and SKIPPED are terminal (R77). -/
def Machine.StepState.terminal : StepState → Bool
  | .done | .failed | .skipped => true
  | _ => false

/-- PENDING, CLAIMING and POWERING: the states before motion that R95, R97 and R99 turn to SKIPPED. -/
def Machine.StepState.waiting : StepState → Bool
  | .pending | .claiming | .powering => true
  | _ => false

/-- OCCUPIED, OCCUPIED(CHILD) and UNKNOWN: the values that stop restricted steps (R93, R143). -/
def Machine.Occupancy.stops : Occupancy → Bool
  | .none => false
  | _ => true

/-- PROX, TOUCH, TUNING and FAULT count as present, NONE as clear (R156). -/
def Machine.ChanState.present : ChanState → Bool
  | .none => false
  | _ => true

/-- NONE, PROX and TOUCH: the states in which a channel takes frames by R149. -/
def Machine.ChanState.tracking : ChanState → Bool
  | .none | .prox | .touch => true
  | _ => false

/-- UNREFERENCED and REFERENCE_FAULT: the axis's count is not used (R39). -/
def Machine.RefState.conservative : RefState → Bool
  | .referenced => false
  | _ => true

/-- The class of a step (R82). -/
def StepClass.code : StepClass → Nat
  | .stowing => 0 | .deploying => 1

/-- STORE notice indexes: layout numbers, and 32 to 38 for the settings records (R182). -/
def RecId.index : RecId → Nat
  | .layout n => n
  | .settings .identifiers => 32 | .settings .geometry => 33 | .settings .dockTable => 34 | .settings .budget => 35
  | .settings .limits => 36 | .settings .overrides => 37 | .settings .bindings => 38

end Sys2Proof
end

