-- ==== Sys2Proof/Machine/Cells.lean ====
section
/-! DEFINITION. Cells, cell sets and the four map operations of section 2.1 (R25 to R30) on the Clearance Map. -/

namespace Sys2Proof.Machine

open Sys2Proof

/-! ### Cells and sets of cells -/

/-- Cell order: lanes, within a lane columns, within a column tiers (R49). -/
def Cell.index (c : Cell) : Nat := c.lane.num * 96 + c.col.val * 6 + c.tier.val

/-- The 96 cells of a lane in the order of R49. -/
def Cell.ofLane (l : Lane) : List Cell :=
  (List.finRange 16).flatMap fun col => (List.finRange 6).map fun tier => ⟨l, col, tier⟩

/-- The 288 cells in cell order. -/
def Cell.all : List Cell := Cell.ofLane .left ++ Cell.ofLane .centre ++ Cell.ofLane .right

namespace CellSet

def empty : CellSet := ⟨0⟩

def mem (s : CellSet) (c : Cell) : Bool := s.bits.getLsbD c.index

def union (s t : CellSet) : CellSet := ⟨s.bits ||| t.bits⟩

def inter (s t : CellSet) : CellSet := ⟨s.bits &&& t.bits⟩

def diff (s t : CellSet) : CellSet := ⟨s.bits &&& ~~~t.bits⟩

def isEmpty (s : CellSet) : Bool := s.bits == 0

def insert (s : CellSet) (c : Cell) : CellSet := ⟨s.bits ||| (1#288 <<< c.index)⟩

def ofList (l : List Cell) : CellSet := l.foldl insert empty

/-- The number a list of marks spells, the first mark in the least significant bit (R181, Sets). -/
def marks : List Bool → Nat
  | [] => 0
  | b :: bs => b.toNat + 2 * marks bs

/-- The set of the cells whose mark is set, marks in cell order. -/
def ofMarks (l : List Bool) : CellSet := ⟨BitVec.ofNat 288 (marks l)⟩

/-- The set of the cells that satisfy `p`. -/
def ofPred (p : Cell → Bool) : CellSet := ofMarks (Cell.all.map p)

def card (s : CellSet) : Nat := Cell.all.countP s.mem

end CellSet

/-! ### The map -/

namespace CellMap

/-- The map after power-on: every cell FREE, nothing listed, nothing reserved (R25). -/
def empty : CellMap := ⟨List.replicate 288 none, .rep CellSet.empty, .rep none⟩

/-- The holder of a cell; none is FREE (R25). -/
def holderOf (m : CellMap) (c : Cell) : Option Holder := m.cells.getD c.index none

/-- Each cell's new holder from the cell and its holder, in cell order. -/
def zipCells (f : Cell → Option Holder → Option Holder) : List Cell → List (Option Holder) → List (Option Holder)
  | [], _ => []
  | c :: cs, [] => f c none :: zipCells f cs []
  | c :: cs, h :: hs => f c h :: zipCells f cs hs

/-- The map with every cell's holder set by `f`. -/
def rehold (m : CellMap) (f : Cell → Option Holder → Option Holder) : CellMap :=
  { m with cells := zipCells f Cell.all m.cells }

/-- The cells a holder holds. -/
def heldBy (m : CellMap) (h : Holder) : CellSet := .ofPred fun c => m.holderOf c == some h

/-- The cells held by holders other than `h`. -/
def heldByOthers (m : CellMap) (h : Holder) : CellSet :=
  .ofPred fun c => (m.holderOf c).isSome && m.holderOf c != some h

/-- Install (R26): FREE cells of `S` are taken, cells held by others are listed; nothing is taken from anyone. -/
def install (m : CellMap) (h : Holder) (S : CellSet) : CellMap :=
  let m' := m.rehold fun c x => if x.isNone && S.mem c then some h else x
  { m' with listed := m.listed.set h ((m.listed.get h).union (S.inter (m.heldByOthers h))) }

/-- The cells of `S` that keep dock `d` from claiming it: held by another holder and not listed by `d` (R27). -/
def blocking (m : CellMap) (d : Dock) (S : CellSet) : CellSet :=
  (S.inter (m.heldByOthers (.dock d))).diff (m.listed.get (.dock d))

/-- The blocker of a claim: the lowest-numbered holder of a blocking cell (R27). -/
def blocker (m : CellMap) (d : Dock) (S : CellSet) : Option Holder :=
  Holder.all.find? fun h => !((m.blocking d S).inter (m.heldBy h)).isEmpty

/-- Claim (R27): the whole of `S` is taken and reserved, or nothing changes and the blocker is answered. -/
def claim (m : CellMap) (d : Dock) (S : CellSet) : Except Holder CellMap :=
  match m.blocker d S with
  | some h => .error h
  | none =>
    let m' := m.rehold fun c x => if x.isNone && S.mem c then some (.dock d) else x
    .ok { m' with reserved := m.reserved.set d (some S) }

/-- The lowest-numbered holder other than `h` that lists a cell (R30). -/
def heir (m : CellMap) (h : Holder) (c : Cell) : Option Holder :=
  Holder.all.find? fun g => g != h && (m.listed.get g).mem c

/-- The cells a trim of `h` to `K` drops (R28). -/
def dropped (m : CellMap) (h : Holder) (K : CellSet) : CellSet := (m.heldBy h).diff K

/-- Trim (R28) with the hand-offs of R30: each dropped cell passes to its heir, which no longer lists it, or becomes FREE. -/
def trim (m : CellMap) (h : Holder) (K : CellSet) : CellMap :=
  let m' := m.rehold fun c x => if x == some h && !K.mem c then m.heir h c else x
  let gone := m.dropped h K
  { m' with
    listed := .ofFn fun g =>
      if g == h then (m.listed.get h).inter K
      else (m.listed.get g).diff (gone.inter (.ofPred fun c => m.heir h c == some g)) }

/-- Whether a trim of `h` to `K` drops a cell, so that the Order Pool is told (R30). -/
def drops (m : CellMap) (h : Holder) (K : CellSet) : Bool := !(m.dropped h K).isEmpty

/-- The dock's reservation record removed. -/
def unreserve (m : CellMap) (d : Dock) : CellMap := { m with reserved := m.reserved.set d none }

/-- Release of a dock (R29). -/
def release (m : CellMap) (d : Dock) : CellMap := (m.unreserve d).trim (.dock d) .empty

end CellMap

end Sys2Proof.Machine
end

