-- ==== Sys2Proof/Machine/Geometry.lean ====
section
/-! DEFINITION. Stations, shifts, footprints, sweeps and envelopes (R34 to R40), the built-in Geometry Table (R32)
and the default Dock Table (section 2.3), and the form checks of R31 and R33. -/

namespace Sys2Proof.Machine

open Sys2Proof

/-! ### Positions, stations and shifts (R35, R36) -/

def permille (p T : Nat) : Nat := p * 1000 / T

/-- The station of a position: the largest index whose boundary is at most its permille (R35). -/
def stationOf (t : List Station) (T p : Nat) : Nat :=
  (t.takeWhile fun st => st.boundary ≤ permille p T).length - 1

/-- Slide position in millimetres (R36). -/
def millimetres (p pitch : Nat) : Nat := p * 10 / pitch

/-- The shift set of a slide range in millimetres (R36). -/
def shiftSet (lo hi : Nat) : List Nat :=
  (List.range (ceilDiv hi 100 + 1)).filter fun j => lo / 100 ≤ j

/-- The whole numbers from the smaller to the larger of two, both included. -/
def between (a b : Nat) : List Nat :=
  (List.range (max a b + 1)).filter fun j => min a b ≤ j

/-- The station table of an axis kind in an entry; SLIDE has none (R31). -/
def GeomEntry.table (e : GeomEntry) : AxisKind → List Station
  | .slide => []
  | .recline => e.recline
  | .tumble | .well => e.base
  | .headrest => e.headrest.getD []

/-- The last station of an axis kind in an entry. -/
def GeomEntry.lastStation (e : GeomEntry) (k : AxisKind) : Nat := (e.table k).length - 1

/-- The station of an axis at a position (R35). -/
def Axis.stationAt (a : Axis) (e : GeomEntry) (p : Nat) : Nat := stationOf (e.table a.kind) a.travel p

/-- The slide travel of an axis in millimetres (R36). -/
def Axis.travelMm (a : Axis) : Nat := millimetres a.travel a.pitch

/-! ### Footprints (R37, R38) -/

def stationCells (t : List Station) (i : Nat) : List RelCell :=
  match t[i]? with
  | some st => st.cells
  | none => []

/-- Whether a station of a table carries its flag (WHOLE or RESTRICTED). -/
def stationFlag (t : List Station) (i : Nat) : Bool :=
  match t[i]? with
  | some st => st.flag
  | none => false

/-- The relative footprint at one station per axis (R37); `none` stands for the fixed base cells. -/
def GeomEntry.relative (e : GeomEntry) (base : Option Nat) (recline head : Nat) : List RelCell :=
  let folded := stationCells e.recline recline ++ stationCells (e.headrest.getD []) head
  match base with
  | none => e.fixed ++ folded
  | some i => if stationFlag e.base i then stationCells e.base i else stationCells e.base i ++ folded

/-- The absolute cell of a relative cell at a placement with shift `j`, or none where it is dropped (R38). -/
def Placement.cell? (pl : Placement) (j : Nat) (r : RelCell) : Option Cell :=
  let lane : Int := if pl.mirror then (pl.lane.num : Int) - r.lane else (pl.lane.num : Int) + r.lane
  let col := pl.origin + r.col + j
  if lane < 0 then none
  else
    match Lane.ofNum? lane.toNat with
    | none => none
    | some l =>
      if hc : col < 16 then if ht : r.tier < 6 then some ⟨l, ⟨col, hc⟩, ⟨r.tier, ht⟩⟩ else none else none

/-- The stations and shifts a unit is taken at: for each of base, recline and headrest the stations, for the slide
the shifts. A footprint at a posture has one of each; conservative axes and sweeps have several (R39, R40). -/
structure Pose where
  bases : List (Option Nat)
  reclines : List Nat
  heads : List Nat
  shifts : List Nat
deriving DecidableEq, Repr

/-- The relative cells of every combination of a pose's stations. -/
def GeomEntry.relatives (e : GeomEntry) (p : Pose) : List RelCell :=
  p.bases.flatMap fun b => p.reclines.flatMap fun r => p.heads.flatMap fun h => e.relative b r h

/-- The absolute cells of a pose: the union over every combination of its stations and shifts (R38, R39). -/
def span (e : GeomEntry) (pl : Placement) (p : Pose) : CellSet :=
  .ofList (p.shifts.flatMap fun j => (e.relatives p).filterMap (pl.cell? j))

/-! ### The poses of a unit (R39, R40) -/

/-- Every station of an axis, or for SLIDE every shift of its travel (R39, R40). -/
def Axis.fullRange (a : Axis) (e : GeomEntry) : List Nat :=
  if a.kind = .slide then shiftSet 0 a.travelMm else List.range (e.table a.kind).length

/-- The stations (or shifts) an axis takes in a move between two positions (R40); all of them while its count is
not believed (R39). A DISABLED axis stands at its count whatever its reference state (R39, R62, R131): DEDUCED, log 46. -/
def Axis.rangeOf (a : Axis) (e : GeomEntry) (p0 p1 : Nat) : List Nat :=
  if a.ref.conservative && a.enabled then a.fullRange e
  else if a.kind = .slide then
    shiftSet (min (millimetres p0 a.pitch) (millimetres p1 a.pitch)) (max (millimetres p0 a.pitch) (millimetres p1 a.pitch))
  else between (a.stationAt e p0) (a.stationAt e p1)

/-- The stations (or shifts) of an axis at rest (R36, R39). -/
def Axis.places (a : Axis) (e : GeomEntry) : List Nat := a.rangeOf e a.count a.count

def findAxis (axes : List Axis) (k : AxisKind) : Option Axis := axes.find? fun a => a.kind = k

/-- The pose of a unit whose axes stand at their counts, but for the stations (or shifts) that `places` gives. An axis
the unit does not declare stands at station 0, the base then at the fixed base cells (R19, R36, R37). -/
def poseWith (e : GeomEntry) (axes : List Axis) (places : AxisKind → Option (List Nat)) : Pose :=
  let at_ (k : AxisKind) : Option (List Nat) := (findAxis axes k).map fun a => (places k).getD (a.places e)
  { bases := match at_ e.kind.baseAxis with
      | none => [none]
      | some l => l.map some
    reclines := (at_ .recline).getD [0]
    heads := (at_ .headrest).getD [0]
    shifts := (at_ .slide).getD [0] }

/-- One axis taken through given stations (or shifts), the others at their counts. -/
def overOne (k : AxisKind) (l : List Nat) (k' : AxisKind) : Option (List Nat) := if k' = k then some l else none

/-- The footprint of a dock record (R39): empty where it holds no unit. -/
def DockRec.footprint (r : DockRec) : CellSet :=
  match r.geometry, r.placement with
  | some e, some pl => span e pl.place (poseWith e r.axes fun _ => none)
  | _, _ => .empty

/-- The sweep of a move of one axis between two positions (R40). -/
def DockRec.sweep (r : DockRec) (k : AxisKind) (p0 p1 : Nat) : CellSet :=
  match r.geometry, r.placement, findAxis r.axes k with
  | some e, some pl, some a => span e pl.place (poseWith e r.axes (overOne k (a.rangeOf e p0 p1)))
  | _, _, _ => .empty

/-- The full-travel sweep of an axis (R40). -/
def DockRec.fullSweep (r : DockRec) (k : AxisKind) : CellSet :=
  match r.geometry, r.placement, findAxis r.axes k with
  | some e, some pl, some a => span e pl.place (poseWith e r.axes (overOne k (a.fullRange e)))
  | _, _, _ => .empty

/-! ### Envelopes (R34) -/

/-- Every station of every table, the fixed base cells among the bases, with the given shifts. -/
def GeomEntry.everyPose (e : GeomEntry) (shifts : List Nat) : Pose :=
  { bases := none :: (List.range e.base.length).map some
    reclines := List.range e.recline.length
    heads := match e.headrest with
      | some t => List.range t.length
      | none => [0]
    shifts := shifts }

/-- The shifts an entry's slide reach gives to the envelope. -/
def GeomEntry.reachShifts (e : GeomEntry) : List Nat :=
  match e.reach with
  | some mm => shiftSet 0 mm
  | none => [0]

/-- The envelope of a placement under a Geometry Table (R34). -/
def envelope (table : List GeomEntry) (pl : Placement) : CellSet :=
  (table.filter fun e => e.kind = pl.kind).foldl (fun acc e => acc.union (span e pl (e.everyPose e.reachShifts))) .empty

/-- The envelopes of a Dock Table (R33, R34). -/
def envelopes (table : List GeomEntry) (t : PerDock Placement) : PerDock CellSet := t.map (envelope table)

/-- The full-reach union of an entry at a placement (R34). -/
def fullReach (e : GeomEntry) (pl : Placement) : CellSet :=
  span e pl (e.everyPose (if e.reach.isSome then List.range 16 else [0]))

/-- More than the 96 cells an overlap list holds (R25, R34). -/
def CellSet.tooLarge (s : CellSet) : Bool := 96 < s.card

/-! ### Form checks of the table writes (R31, R33) -/

def relCellInRange (r : RelCell) : Bool := -1 ≤ r.lane && r.lane ≤ 1 && r.col ≤ 5 && r.tier ≤ 5

/-- A cell list of R31: 0 to 24 relative cells in range with no duplicates. -/
def cellListOk (l : List RelCell) : Bool := l.length ≤ 24 && l.all relCellInRange && l.Nodup

/-- A station table of R31: 2 to 8 stations, boundaries strictly ascending from 0 to at most 999. -/
def tableOk (t : List Station) : Bool :=
  let bs := t.map (·.boundary)
  2 ≤ t.length && t.length ≤ 8 && bs.head? == some 0 && bs.all (· ≤ 999) &&
    (bs.zip bs.tail).all (fun p => p.1 < p.2) && t.all fun st => cellListOk st.cells

/-- A station table without flags, as a headrest table is (R31). -/
def unflagged (t : List Station) : List Station := t.map fun st => { st with flag := false }

/-- The entry that contents make, if every field lies within the limits of R31 and the tables present are those the
kind has. -/
def rawEntry? (g : RawGeometry) (k : UnitKind) (revision : Nat) : Option GeomEntry :=
  let reachOk := match k, g.reach with
    | .third, none => true
    | .captain, some mm | .centre, some mm => mm ≤ 1000
    | _, _ => false
  let headOk := match k, g.headrest with
    | .centre, none => true
    | .captain, some t | .third, some t => tableOk t
    | _, _ => false
  match g.base, g.recline, g.fixed with
  | some b, some r, some f =>
    if reachOk && headOk && tableOk b && tableOk r && cellListOk f then
      some ⟨k, revision, g.reach, b, r, g.headrest.map unflagged, f⟩
    else none
  | _, _, _ => none

/-- A placement whose fields lie within their ranges (R33). -/
def placementOf? (r : RawPlacement) : Option Placement :=
  match Lane.ofNum? r.lane, UnitKind.ofCode? r.kind with
  | some l, some k => if r.origin ≤ 15 && r.mirror ≤ 1 then some ⟨l, r.origin, r.mirror == 1, k⟩ else none
  | _, _ => none

/-- Five placements, each in range (R33). -/
def dockTableOf? : List RawPlacement → Option (PerDock Placement)
  | [a, b, c, d, e] =>
    match placementOf? a, placementOf? b, placementOf? c, placementOf? d, placementOf? e with
    | some a, some b, some c, some d, some e => some ⟨a, b, c, d, e⟩
    | _, _, _, _, _ => none
  | _ => none

/-! ### The built-in tables (R32, section 2.3) -/

/-- A block of relative cells of lane offset 0: column offsets and tiers, both ends included (R32). -/
def relBlock (c0 c1 t0 t1 : Nat) : List RelCell :=
  (between c0 c1).flatMap fun c => (between t0 t1).map fun t => ⟨0, c, t⟩

def captainRev2 : GeomEntry :=
  { kind := .captain, revision := 2, reach := some 300
    base := [⟨0, relBlock 1 4 0 1, false⟩, ⟨400, relBlock 0 3 0 2, true⟩, ⟨800, relBlock 0 1 0 3, true⟩]
    recline := [⟨0, relBlock 4 5 2 4, false⟩, ⟨600, relBlock 1 3 2 2, true⟩]
    headrest := some [⟨0, relBlock 5 5 5 5, false⟩, ⟨500, [], false⟩]
    fixed := relBlock 1 4 0 1 }

def centreRev1 : GeomEntry :=
  { kind := .centre, revision := 1, reach := some 300
    base := [⟨0, relBlock 1 3 0 1, false⟩, ⟨500, relBlock 0 2 0 2, true⟩]
    recline := [⟨0, relBlock 3 4 2 4, false⟩, ⟨600, relBlock 1 3 2 2, true⟩]
    headrest := none
    fixed := relBlock 1 3 0 1 }

def thirdRev1 : GeomEntry :=
  { kind := .third, revision := 1, reach := none
    base := [⟨0, relBlock 2 4 1 2, false⟩, ⟨300, relBlock 2 5 0 1, true⟩, ⟨900, relBlock 2 5 0 0, true⟩]
    recline := [⟨0, relBlock 4 5 3 4, false⟩, ⟨700, relBlock 1 4 3 3, true⟩]
    headrest := some [⟨0, relBlock 5 5 5 5, false⟩, ⟨500, [], false⟩]
    fixed := relBlock 2 4 1 2 }

/-- The built-in Geometry Table (R32). -/
def builtInGeometry : List GeomEntry := [captainRev2, centreRev1, thirdRev1]

/-- The default placements (00_scope.md, Docks). -/
def defaultDockTable : PerDock Placement :=
  ⟨⟨.left, 1, false, .captain⟩, ⟨.centre, 1, false, .centre⟩, ⟨.right, 1, true, .captain⟩,
    ⟨.left, 8, false, .third⟩, ⟨.right, 8, true, .third⟩⟩

/-- The target set of a front holder for an intrusion in millimetres (R47). -/
def frontSet (l : Lane) (mm : Nat) : CellSet :=
  let i := min mm 250
  .ofPred fun c => c.lane == l && c.col.val < ceilDiv i 100

end Sys2Proof.Machine
end

