-- ==== Sys2Proof/Machine/Wire.lean ====
section
/-! DEFINITION. Fields, check value, Seat Link frames and pages, and codes (R181, R182, sections 11.1, 11.5, 11.6). -/

namespace Sys2Proof.Machine

open Sys2Proof

/-! ### Fields (R181) -/

/-- A one-byte field. -/
def byteOf (n : Nat) : Byte := BitVec.ofNat 8 n

/-- A two-byte field, most significant byte first. -/
def wordOf (n : Nat) : List Byte := [byteOf (n / 256), byteOf (n % 256)]

/-- A four-byte field, most significant byte first. -/
def longOf (n : Nat) : List Byte := wordOf (n / 65536 % 65536) ++ wordOf (n % 65536)

/-- A one-byte field that may be absent, carried as 255. -/
def optByte : Option Nat → Byte
  | some n => byteOf n
  | none => 255

/-- A two-byte field that may be absent, carried as 65535. -/
def optWord : Option Nat → List Byte
  | some n => wordOf n
  | none => [255, 255]

/-- The number a one-byte field of a received frame carries; 0 past the frame's end. -/
def byteAt (bs : List Byte) (i : Nat) : Nat := (bs.getD i 0).toNat

/-- The number a two-byte field of a received frame carries. -/
def wordAt (bs : List Byte) (i : Nat) : Nat := byteAt bs i * 256 + byteAt bs (i + 1)

/-- A flag, carried as 0 or 1. -/
def flagOf (b : Bool) : Byte := if b then 1 else 0

/-- A received flag; a code other than 0 and 1 has no value assigned. -/
def flagAt? (bs : List Byte) (i : Nat) : Option Bool :=
  match byteAt bs i with
  | 0 => some false
  | 1 => some true
  | _ => none

/-! ### Check value (R181): CRC-16, polynomial 0x1021, initial value 0xFFFF, no reflection, no final exclusive-or -/

def crcShift (r : BitVec 16) : BitVec 16 := if r.msb then (r <<< 1) ^^^ 0x1021#16 else r <<< 1

def crcByte (r : BitVec 16) (b : Byte) : BitVec 16 :=
  crcShift (crcShift (crcShift (crcShift (crcShift (crcShift (crcShift (crcShift (r ^^^ (b.zeroExtend 16 <<< 8)))))))))

def crc16 (bs : List Byte) : BitVec 16 := bs.foldl crcByte 0xFFFF#16

/-- A Seat Link frame: its bytes and their check value, most significant byte first. -/
def sealed (bs : List Byte) : List Byte := bs ++ wordOf (crc16 bs).toNat

/-- Whether a received Seat Link frame's check value is correct. -/
def checkOk (bs : List Byte) : Bool :=
  2 ≤ bs.length && wordAt bs (bs.length - 2) == (crc16 (bs.take (bs.length - 2))).toNat

/-! ### Codes (section 11.6; elsewhere the order of the owning rule's table) -/

def Lamp.code : Lamp → Nat
  | .off => 0 | .on => 1 | .blinkSlow => 2 | .blinkFast => 3

def DockState.code : DockState → Nat
  | .empty => 0 | .seating => 1 | .enrolling => 2 | .ready => 3 | .silent => 4 | .faulted => 5 | .vacating => 6

def DockFault.code : DockFault → Nat
  | .noResponse => 1 | .pageSequence => 2 | .kindNotAllowed => 3 | .unknownGeometry => 4 | .axisMismatch => 5

def Code.num : Code → Nat
  | .ok => 0 | .notFound => 1 | .refusedAccess => 2 | .badRequest => 3 | .badArgument => 4 | .busy => 5
  | .poolFull => 6 | .tableFull => 7 | .duplicateLabel => 8 | .protected_ => 9 | .staleGeneration => 10
  | .infeasible => 11 | .dockNotReady => 12 | .notParked => 13

def Reason.code : Reason → Nat
  | .blockedDock => 1 | .blockedExternal => 2 | .blockedObject => 3 | .occupied => 4 | .noPower => 5 | .noMotion => 6
  | .obstructed => 7 | .driveFault => 8 | .linkLost => 9 | .unitRemoved => 10 | .vehicleMoving => 11
  | .referenceFault => 12

def StepState.code : StepState → Nat
  | .pending => 0 | .claiming => 1 | .powering => 2 | .starting => 3 | .running => 4 | .stopping => 5
  | .reversing => 6 | .done => 7 | .failed => 8 | .skipped => 9

def OrderState.code : OrderState → Nat
  | .active => 0 | .paused => 1 | .done => 2 | .failed => 3 | .cancelled => 4 | .superseded => 5

def OrderKind.code : OrderKind → Nat
  | .arrange => 0 | .single => 1 | .homing => 2 | .jog => 3

/-- Origins in the order R76 lists them: BODY, ACCESS, GATEWAY, SERVICE, CARGO_STRIP. -/
def OrderOrigin.code : OrderOrigin → Nat
  | .cls .body => 0 | .cls .access => 1 | .cls .gateway => 2 | .cls .service => 3 | .cls .restraint => 255
  | .cargoStrip => 4

def StepKind.code : StepKind → Nat
  | .move => 0 | .homing => 1 | .jog => 2

def StopCause.code : StopCause → Nat
  | .cancel => 0 | .supersede => 1 | .pause => 2 | .release => 3

def ObstCause.code : ObstCause → Nat
  | .current => 0 | .speed => 1 | .stall => 2 | .foldPath => 3

def Occupancy.code : Occupancy → Nat
  | .none => 0 | .occupied => 1 | .child => 2 | .unknown => 3

def Validation.code : Validation → Nat
  | .feasible => 0 | .partial_ => 1 | .infeasible _ _ => 2 | .noMatch => 3

/-- The dock pair as section 11.4 carries it: lower dock in the high four bits; 0 unless INFEASIBLE. -/
def Validation.pair : Validation → Nat
  | .infeasible lo hi => lo.num * 16 + hi.num
  | _ => 0

def StoreState.code : StoreState → Nat
  | .stored => 0 | .pending => 1 | .volatile => 2

def Expected.code : Expected → Nat
  | .only k => k.code
  | .any => 3

def RefState.code : RefState → Nat
  | .referenced => 0 | .unreferenced => 1 | .referenceFault => 2

def DriveCond.code : DriveCond → Nat
  | .idle => 0 | .driven => 1 | .settling => 2

def Segment.code : Segment → Nat
  | .rampUp => 0 | .cruise => 1 | .rampDown => 2 | .creep => 3

def Direction.code : Direction → Nat
  | .increase => 0 | .decrease => 1

def ChanState.code : ChanState → Nat
  | .none => 0 | .prox => 1 | .touch => 2 | .tuning => 3 | .fault => 4

/-- The fault cause of a channel in one byte, SATURATED and the three errors of TUNING_ERROR numbered together in the order of
R147: DESIGN CHOICE, log 79. -/
def ChanFault.code : ChanFault → Nat
  | .saturated => 0 | .compLow => 1 | .compHigh => 2 | .outOfBand => 3

def Attention.code : Attention → Nat
  | .none => 0 | .wait _ => 1 | .obstructed => 2

def Gesture.code : Gesture → Nat
  | .tap => 0 | .flickFwd => 1 | .flickRear => 2 | .swipeHold => 3

def Gesture.ofCode? : Nat → Option Gesture
  | 0 => some .tap | 1 => some .flickFwd | 2 => some .flickRear | 3 => some .swipeHold
  | _ => none

/-- Gear codes (section 11.6); a larger code has no value assigned. -/
def Gear.ofCode? : Nat → Option Gear
  | 0 => some .park | 1 => some .reverse | 2 => some .neutral | 3 => some .drive | 4 => some .other
  | _ => none

/-- Noted blocker as R182 carries it: kind in the high four bits, holder or channel in the low four. -/
def blockerByte : Option Blocker → Nat
  | none => 0
  | some (.dock d) => 16 + d.num
  | some (.external h) => 32 + h.num
  | some (.object ch) => 48 + ch.code
  | some .referenceWait => 64

/-- A set of channels, CUSHION in the least significant bit (R181). -/
def channelSetByte (l : List Channel) : Nat :=
  (if l.contains .cushion then 1 else 0) + (if l.contains .back then 2 else 0) + (if l.contains .lid then 4 else 0)

/-- A set of docks, D1 in the least significant bit (R181). -/
def dockSetByte (l : List Dock) : Nat := (Dock.all.filter l.contains).foldl (fun n d => n + 2 ^ (d.num - 1)) 0

/-- The switches byte of a status frame (section 11.5); absent 255. -/
def switchesByte : Option Switches → Nat
  | none => 255
  | some s => s.pulled.toNat + 2 * s.latched.toNat

/-! ### Seat Link frames (section 11.5) -/

/-- The pad node's address (R181). -/
def padAddress : Nat := 6

/-- The compensation of a channel kind among a dock's records; 512 for a channel with no record (section 11.5). -/
def compOf (chans : List Chan) (k : ChanKind) : Nat :=
  match chans.find? fun c => c.kind = k with
  | some c => c.comp
  | none => 512

/-- A dock drive frame (R14, R148). -/
def driveFrame (d : Dock) (lamp : Lamp) (cmd : MotorCmd) (chans : List Chan) : List Byte :=
  let command := match cmd with
    | .brake => [0, 0, 0, 0, 0]
    | .drive i dir v => [1, byteOf i, byteOf dir.code] ++ wordOf v
  sealed ([byteOf d.num, 0, byteOf lamp.code] ++ command ++ wordOf (compOf chans .cushion) ++
    wordOf (compOf chans .back) ++ wordOf (compOf chans .lid))

/-- The pad drive frame (R161); 512 for an electrode that has no record. Its frame kind is 0, DRIVE: DEDUCED, log 68. -/
def padFrame (electrodes : List Chan) : List Byte :=
  sealed ([byteOf padAddress, 0] ++ (List.range 4).flatMap fun i =>
    wordOf (match electrodes[i]? with
      | some c => c.comp
      | none => 512))

/-- The controller pages (section 1.4). -/
inductive ControllerPage
  | open_
  | next
  | accepted
  | rejected (why : DockFault)
deriving DecidableEq, Repr

/-- A controller page (section 11.5): verdict and reason are absent on OPEN and NEXT, the reason on ACCEPTED. -/
def pageFrame (d : Dock) (p : ControllerPage) (toggle : Bool) (lamp : Lamp) : List Byte :=
  let (kind, verdict, reason) : Nat × Byte × Byte := match p with
    | .open_ => (0, 255, 255)
    | .next => (1, 255, 255)
    | .accepted => (2, 0, 255)
    | .rejected why => (2, 1, byteOf why.code)
  sealed [byteOf d.num, 1, byteOf kind, flagOf toggle, byteOf lamp.code, verdict, reason]

/-- A raw count as received; above 4095 it is a free value (log 20). -/
def rawCount (n : Nat) : Nat := if n ≤ 4095 then n else (Config.outOfRangeRaw (BitVec.ofNat 16 n)).val

/-- A dock status frame, if it answers the poll of `d`: length, check value, address and frame kind
(R14, R181). The frame kind of a status frame is that of the drive frame it answers: DEDUCED, log 68. -/
def decodeStatus (d : Dock) (bs : List Byte) : Option StatusFrame :=
  if bs.length = 22 ∧ checkOk bs ∧ byteAt bs 0 = d.num ∧ byteAt bs 1 = 0 then
    some
      { counts := [wordAt bs 2, wordAt bs 4, wordAt bs 6, wordAt bs 8]
        current := wordAt bs 10
        faults := byteAt bs 12 % 8 != 0
        switches := ⟨byteAt bs 13 % 2 == 1, byteAt bs 13 / 2 % 2 == 1⟩
        raws := [rawCount (wordAt bs 14), rawCount (wordAt bs 16), rawCount (wordAt bs 18)] }
  else none

/-- The bytes of a dock status frame, as its node sends them (section 11.5): `faults` is the fault-flags byte, the
frame kind is log 68's. -/
def encodeStatus (d : Dock) (counts : List Nat) (current faults : Nat) (sw : Switches) (raws : List Nat) : List Byte :=
  sealed ([byteOf d.num, 0] ++ (List.range 4).flatMap (fun i => wordOf (counts.getD i 0)) ++ wordOf current ++
    [byteOf faults, byteOf (switchesByte (some sw))] ++ (List.range 3).flatMap fun i => wordOf (raws.getD i 0))

/-- A pad status frame's raw counts, if it answers the pad poll (R161); its frame kind is 0: DEDUCED, log 68. -/
def decodePad (bs : List Byte) : Option (List Nat) :=
  if bs.length = 12 ∧ checkOk bs ∧ byteAt bs 0 = padAddress ∧ byteAt bs 1 = 0 then
    some [rawCount (wordAt bs 2), rawCount (wordAt bs 4), rawCount (wordAt bs 6), rawCount (wordAt bs 8)]
  else none

/-- The bytes of a pad status frame, as the pad node sends them; the frame kind is log 68's. -/
def encodePad (raws : List Nat) : List Byte :=
  sealed ([byteOf padAddress, 0] ++ (List.range 4).flatMap fun i => wordOf (raws.getD i 0))

/-- The body of a node page (section 11.5). -/
inductive PageBody
  | base (i : Identity)
  | axis (p : AxisPage)
  | acknowledge
deriving DecidableEq, Repr

/-- A node page (section 11.5). -/
structure NodePage where
  toggle : Bool
  ack : Bool
  more : Bool
  body : PageBody
deriving DecidableEq, Repr

/-- A channel set byte; the bits above LID name no channel and are not read. -/
def channelsOf (n : Nat) : List Channel :=
  (if n % 2 = 1 then [.cushion] else []) ++ (if n / 2 % 2 = 1 then [.back] else []) ++ (if n / 4 % 2 = 1 then [.lid] else [])

/-- The body of a node page from its page kind, with every coded field's code assigned (R17 check 1). The unit kind of a BASE
page is no ANY: DEDUCED, log 69. -/
def pageBody? (bs : List Byte) : Option PageBody :=
  match byteAt bs 2 with
  | 3 =>
    match UnitKind.ofCode? (byteAt bs 6), flagAt? bs 14 with
    | some k, some trust =>
      if bs.length = 17 then
        some (.base ⟨k, byteAt bs 7, wordAt bs 8 * 65536 + wordAt bs 10, byteAt bs 12, channelsOf (byteAt bs 13), trust⟩)
      else none
    | _, _ => none
  | 4 =>
    match AxisKind.ofCode? (byteAt bs 6) with
    | some k =>
      if bs.length = 21 then
        some (.axis ⟨k, wordAt bs 7, byteAt bs 9, byteAt bs 10, wordAt bs 11, wordAt bs 13, wordAt bs 15, wordAt bs 17⟩)
      else none
    | none => none
  | 5 => if bs.length = 8 then some .acknowledge else none
  | _ => none

/-- A node page that passes check 1 of R17: check value, address, and every coded field assigned. -/
def decodePage (d : Dock) (bs : List Byte) : Option NodePage :=
  if checkOk bs ∧ byteAt bs 0 = d.num ∧ byteAt bs 1 = 1 then
    match flagAt? bs 3, flagAt? bs 4, flagAt? bs 5, pageBody? bs with
    | some t, some a, some m, some b => some ⟨t, a, m, b⟩
    | _, _, _, _ => none
  else none

/-- The bytes of a node page, as its node sends them. -/
def encodePage (d : Dock) (p : NodePage) : List Byte :=
  let head (kind : Nat) : List Byte := [byteOf d.num, 1, byteOf kind, flagOf p.toggle, flagOf p.ack, flagOf p.more]
  sealed (match p.body with
    | .base i =>
      head 3 ++ [byteOf i.kind.code, byteOf i.revision] ++ longOf i.serial ++
        [byteOf i.axisCount, byteOf (channelSetByte i.channels), flagOf i.trust]
    | .axis a =>
      head 4 ++ [byteOf a.kind.code] ++ wordOf a.travel ++ [byteOf a.pitch, byteOf a.rated] ++ wordOf a.maxSpeed ++
        wordOf a.nominal ++ wordOf a.stallThreshold ++ wordOf a.stored
    | .acknowledge => head 5)

/-! ### CAN frames (section 11.2) -/

/-- A response frame with the lost-request count it carries (R170, R182). -/
def Response.frame (r : Response) (lost : Nat) : CanFrame :=
  ⟨r.ident, [byteOf r.kind, byteOf r.tag, byteOf r.code.num] ++ optWord r.detail ++
    [flagOf r.restarted, byteOf lost] ++ r.data⟩

/-- A label: its length and 12 character bytes, the bytes past the length spaces (R181). -/
def labelBytes (l : List Nat) : List Byte := byteOf l.length :: (List.range 12).map fun i => byteOf (l.getD i 32)

/-- An entry as carried: dock and expected kind, target set, targets (section 11.4). -/
def Entry.bytes (e : Entry) : List Byte :=
  [byteOf (e.dock.num * 16 + e.expected.code), byteOf (e.targets.foldl (fun n t => n + 2 ^ t.1.code) 0)] ++
    e.targets.flatMap fun t => if t.1 = .slide then wordOf t.2 else [byteOf t.2]

/-- The layout record as carried (section 11.4). -/
def LayoutRec.bytes (r : LayoutRec) : List Byte :=
  [byteOf r.number] ++ wordOf r.generation ++ labelBytes r.label ++
    [byteOf r.owner, byteOf r.urgency.code, byteOf r.validation.code, byteOf r.validation.pair, byteOf r.store.code,
      byteOf r.entries.length] ++ r.entries.flatMap Entry.bytes

end Sys2Proof.Machine
end

