-- ==== Sys2Proof/Machine/Defaults.lean ====
section
/-! DEFINITION. Defaults of the stored settings (R102, R120, R134, R151, R162, R166, R169, R178) and the factory
layouts (R73). -/

namespace Sys2Proof.Machine

open Sys2Proof

/-- The default identifier record (R169). -/
def defaultIdentifiers : IdentRecord :=
  { places := [some ⟨1280, 1296, .body⟩, some ⟨1281, 1297, .access⟩, some ⟨1282, 1298, .gateway⟩,
      some ⟨1283, 1299, .restraint⟩, some ⟨1284, 1300, .service⟩] ++ List.replicate 11 none
    notice := 1312
    vehicle := 304
    intrusion := 305
    sleep := 1024 }

/-- The default limits (R134, R151, R162, R173, R178); the block-wait limit is in seconds. -/
def defaultLimits : Limits :=
  { blockWait := 8
    currentFilter := 64
    slideMargin := 1200
    axisMargin := 800
    reverseDistance := 40
    cushion := ⟨20, 60, 15⟩
    back := ⟨12, 40, 8⟩
    lid := ⟨12, 40, 8⟩
    strip := ⟨10, 30, 6⟩
    presenceFilter := 128
    tuningBand := 800
    stream := false }

/-- The default budget limit (R102). -/
def defaultBudget : Nat := 240

/-- The ten override places, each holding nothing (R120). -/
def emptyOverrides : List Override :=
  [UnitKind.captain, .centre, .third].flatMap fun u => u.axes.map fun a => ⟨u, a, none, none, none, none⟩

/-- Every settings record at its defaults. -/
def defaultSettings : Settings :=
  ⟨defaultIdentifiers, builtInGeometry, defaultDockTable, defaultBudget, defaultLimits, emptyOverrides, []⟩

/-- The character codes of a label (R181). -/
def labelOf (s : String) : List Nat := s.toList.map fun c => c.toNat

/-- The label and contents of the built-in layouts 1 to 6 (R73), in the form of R51's codes: axis 0 SLIDE, 1 RECLINE,
2 TUMBLE, 3 WELL, 4 HEADREST; kind 0 CAPTAIN, 1 CENTRE, 2 THIRD. -/
def builtInLayout : Nat → Option RawContents
  | 1 => some ⟨labelOf "SEVEN-UP", 0, 0,
      [⟨1, 0, [(0, 150), (1, 0), (2, 0), (4, 0)]⟩, ⟨2, 1, [(0, 150), (1, 0), (2, 0)]⟩,
       ⟨3, 0, [(0, 150), (1, 0), (2, 0), (4, 0)]⟩, ⟨4, 2, [(1, 0), (3, 0), (4, 0)]⟩, ⟨5, 2, [(1, 0), (3, 0), (4, 0)]⟩]⟩
  | 2 => some ⟨labelOf "FIVE-CARGO", 0, 0,
      [⟨1, 0, [(1, 0), (2, 0), (4, 0)]⟩, ⟨2, 1, [(1, 0), (2, 0)]⟩, ⟨3, 0, [(1, 0), (2, 0), (4, 0)]⟩,
       ⟨4, 2, [(3, 7)]⟩, ⟨5, 2, [(3, 7)]⟩]⟩
  | 3 => some ⟨labelOf "LONG-LEFT", 0, 0, [⟨1, 0, [(1, 7), (2, 0)]⟩, ⟨4, 2, [(3, 7)]⟩]⟩
  | 4 => some ⟨labelOf "FLAT-FLOOR", 0, 0,
      [⟨1, 0, [(1, 7), (4, 7)]⟩, ⟨2, 1, [(1, 7)]⟩, ⟨3, 0, [(1, 7), (4, 7)]⟩,
       ⟨4, 2, [(1, 7), (3, 7), (4, 7)]⟩, ⟨5, 2, [(1, 7), (3, 7), (4, 7)]⟩]⟩
  | 5 => some ⟨labelOf "EGRESS-L", 0, 1, [⟨1, 0, [(2, 7)]⟩]⟩
  | 6 => some ⟨labelOf "EGRESS-R", 0, 1, [⟨3, 0, [(2, 7)]⟩]⟩
  | _ => none

/-! ### The form of layout contents (R51, R52, R58 check 3) -/

/-- A to Z, 0 to 9, space and hyphen (R52, R181). -/
def labelChar (n : Nat) : Bool := (65 ≤ n && n ≤ 90) || (48 ≤ n && n ≤ 57) || n == 32 || n == 45

/-- 1 to 12 characters of the set of R52. -/
def labelOk (l : List Nat) : Bool := 1 ≤ l.length && l.length ≤ 12 && l.all labelChar

/-- An expected kind's code (section 11.6). -/
def Expected.ofCode? : Nat → Option Expected
  | 3 => some .any
  | n => (UnitKind.ofCode? n).map .only

/-- An axis kind may be targeted under an expected kind (R51). -/
def Expected.hasAxis : Expected → AxisKind → Bool
  | .only k, a => k.axes.contains a
  | .any, _ => true

/-- The targets in the order of R51, with out-of-range values clamped (R51). -/
def orderTargets (ts : List (AxisKind × Nat)) : List (AxisKind × Nat) :=
  [AxisKind.slide, .recline, .tumble, .well, .headrest].filterMap fun k =>
    (ts.find? fun t => t.1 = k).map fun t => (k, min t.2 (if k = .slide then 1000 else 7))

/-- The targets of an entry as received, if each axis kind is known, belongs to the expected kind and is not
repeated, and there are at most four (R58 check 3). -/
def targetsOf? (x : Expected) (ts : List (Nat × Nat)) : Option (List (AxisKind × Nat)) :=
  match ts.mapM fun t => (AxisKind.ofCode? t.1).map fun k => (k, t.2) with
  | none => none
  | some l => if l.length ≤ 4 ∧ (l.map (·.1)).Nodup ∧ l.all (fun t => x.hasAxis t.1) then some (orderTargets l) else none

/-- An entry as received, if it is well formed (R58 check 3). -/
def entryOf? (r : RawEntry) : Option Entry :=
  match Dock.ofNum? r.dock, Expected.ofCode? r.kind with
  | some d, some x => (targetsOf? x r.targets).map fun ts => ⟨d, x, ts⟩
  | _, _ => none

/-- The entries in dock order (R51). -/
def orderEntries (es : List Entry) : List Entry :=
  Dock.all.filterMap fun d => es.find? fun e => e.dock = d

/-- Well-formed contents: label, owner, urgency and entries set as R59 step 1 sets them. -/
structure Contents where
  label : List Nat
  owner : Nat
  urgency : Urgency
  entries : List Entry
deriving DecidableEq, Repr

/-- The contents, if they pass check 3 of R58. -/
def contentsOf? (r : RawContents) : Option Contents :=
  match Urgency.ofCode? r.urgency, r.entries.mapM entryOf? with
  | some u, some es =>
    if labelOk r.label ∧ r.owner ≤ 4 ∧ 1 ≤ es.length ∧ es.length ≤ 5 ∧ (es.map (·.dock)).Nodup then
      some ⟨r.label, r.owner, u, orderEntries es⟩
    else none
  | _, _ => none

/-- The stored fields of a live record (R70). -/
def LayoutRec.toStored (r : LayoutRec) : StoredLayout :=
  ⟨r.number, r.generation,
    { label := r.label
      owner := r.owner
      urgency := r.urgency.code
      entries := r.entries.map fun e => ⟨e.dock.num, e.expected.code, e.targets.map fun t => (t.1.code, t.2)⟩ }⟩

/-- A live record of number `n` made of contents (R54, R59). -/
def Contents.record (c : Contents) (n gen : Nat) (st : StoreState) : LayoutRec :=
  ⟨n, c.label, c.owner, gen, c.urgency, c.entries, .noMatch, st⟩

/-- A factory record at its built-in default, generation 1 (R71, R73). -/
def factoryRecord (n : Nat) (st : StoreState) : Option LayoutRec :=
  ((builtInLayout n).bind contentsOf?).map fun c => c.record n 1 st

/-- The six factory numbers. -/
def factoryNumbers : List Nat := [1, 2, 3, 4, 5, 6]

/-- The nonvolatile memory as delivered: every settings record at its defaults, the six factory layouts at
generation 1, every USER position empty, every check passing (log 1). -/
def deliveredStore : Nonvolatile :=
  { settings := defaultSettings
    layouts := factoryNumbers.filterMap fun n => (factoryRecord n .stored).map LayoutRec.toStored
    bad := [] }

/-! ### The blocks after power-on -/

/-- A dock record after power-on (R1, R158). -/
def emptyDock : DockRec :=
  { state := .empty
    origin := none
    placement := none
    fault := none
    exchange := none
    verdictDue := none
    identity := none
    geometry := none
    axes := []
    switches := none
    unanswered := 0
    silenceAxis := none
    attention := .none
    lamp := .off
    power := false
    settle := none
    powerUp := none
    pageLimit := none
    silence := none
    hold := none
    silenceOwed := false
    command := .brake
    chans := []
    occupancy := .unknown }

/-- The Order Pool after power-on (R74, R75, R98). -/
def emptyPool : Pool := ⟨.rep none, Slot.all, [], 1, none⟩

/-- The Drive Budget Arbiter after power-on (R103, R105 to R107). -/
def emptyArbiter : Arbiter := ⟨0, .rep none, [], .d5, .d5, false, none, .rep none⟩

/-- The Vehicle Network Port after power-on: AWAKE, the quiet timer running as the quiet condition holds (R170, R171,
R174 to R176). -/
def bootPort : Port :=
  { queue := []
    lost := 0
    restarted := true
    speed := 0
    gear := .other
    voltage := 0
    fresh := none
    parked := false
    power := .awake
    quiet := some 60000
    sleepHeld := false
    resetting := false
    tx := [] }

/-- The link once the first round has begun (R179 step 6): no dock has a frame, so the pad's drive frame is out. -/
def bootLink : Link :=
  { left := [.pad]
    due := false
    boundary := 10
    answerBy := some 1
    sent := .rep .brake
    tx := [padFrame []] }

/-- The pad and touch records after power-on (R161, R164). -/
def bootPad : Pad := ⟨false, 0, [], none⟩

/-- The store after loading: the write-due flags that the loading sets, nothing in progress (R177, R179). -/
def bootStore (nv : Nonvolatile) (due : List SettingsId) : Store := ⟨nv, due, false, false, none⟩

/-- The Layout Table loaded from a store as delivered: the six factory records, STORED and NO_MATCH (R50, R71, R73). -/
def deliveredLayouts : LayoutTable := ⟨factoryNumbers.filterMap fun n => factoryRecord n .stored, none, []⟩

end Sys2Proof.Machine
end

