-- ==== Sys2Proof/Machine/State.lean ====
section
/-! DEFINITION. The state of the part, its outcomes, and the state just after power-on (R179). -/

namespace Sys2Proof.Machine

open Sys2Proof

/-- What the blocks that act on the seats share: the clock, the settings in force with the envelopes they give, the dock
records with their axes and channels, the map, the layouts, the orders, the drive budget, the notices, the stream timers
(R173), the jog record (R168), and what blocks have still to tell one another in the present command (log 3). -/
structure Cabin where
  now : Nat
  set : Settings
  envelopes : PerDock CellSet
  docks : PerDock DockRec
  map : CellMap
  layouts : LayoutTable
  pool : Pool
  arb : Arbiter
  notices : List Notice
  streams : PerDock Timer
  jog : Option Jog
  agenda : List Task
deriving DecidableEq, Repr

/-- The whole part: the cabin, the Vehicle Network Port, the Seat Link Controller, the pad, the Settings Store, the latch
lines as read (true is closed), the intrusion freshness timer (R48), and the commands waiting. -/
structure State where
  cab : Cabin
  port : Port
  link : Link
  pad : Pad
  store : Store
  latchA : PerDock Bool
  latchB : PerDock Bool
  intrusion : Timer
  pending : List Instr
deriving DecidableEq, Repr

/-- No rule of the spec stops the part, so there is no fault: every command ends in a next state (safe: nothing is raised). -/
inductive Fault
deriving DecidableEq, Repr

/-- Why a command has no meaning here. -/
inductive Refusal
  /-- A command whose meaning is not modelled; raised by an arm of exec only, and none raises it. Safe. -/
  | notModelled (mnemonic : String)
deriving DecidableEq, Repr

/-- The cabin just after the loading of R179, with given settings, layouts and notices. R34 holds an envelope to 96 cells at the
writes of the two tables; where one loads as stored and the other takes its default (R32, R33), an envelope may exceed them,
and it is computed as it is, no overlap list being bounded: DESIGN CHOICE, log 86. -/
def bootCabin (set : Settings) (layouts : LayoutTable) (notices : List Notice) : Cabin :=
  { now := 0
    set := set
    envelopes := envelopes set.geometry set.dockTable
    docks := .rep emptyDock
    map := .empty
    layouts := layouts
    pool := emptyPool
    arb := emptyArbiter
    notices := notices
    streams := .rep none
    jog := none
    agenda := [] }

/-- The part just after power-on on a store as delivered, with every latch line open (R179; log 1, log 4). -/
def State.reset : State :=
  { cab := bootCabin defaultSettings deliveredLayouts []
    port := bootPort
    link := bootLink
    pad := bootPad
    store := bootStore deliveredStore []
    latchA := .rep false
    latchB := .rep false
    intrusion := some 1000
    pending := [] }

end Sys2Proof.Machine
end

