-- ==== Sys2Proof/Machine/Ops.lean ====
section
/-! DEFINITION. The shared operations on the cabin: notices (R172), what is told inside a command, and access to dock,
axis, order and step records. -/

namespace Sys2Proof.Machine

open Sys2Proof

/-- Makes a subject pending: at the tail, or in its place with any indication given replacing the one before (R172). -/
def pend (l : List Notice) (s : Subject) (i : Option Indication) : List Notice :=
  if l.any fun n => n.subject = s then
    l.map fun n => if n.subject = s then { n with indication := i.or n.indication } else n
  else l ++ [⟨s, i⟩]

/-- The step's name (R105, R121). -/
def Order.ref (o : Order) (s : Step) : StepRef := ⟨o.number, s.index⟩

/-- Whether a dock or axis list record holds a step of an order in motion (R77). -/
def Step.moving (s : Step) : Bool := s.state.inMotion

/-- A step in a new state: the noted blocker and wait start time are CLAIMING's, the stop cause STOPPING's, and the claim
flag goes with a terminal state (R77). -/
def Step.enter (s : Step) (st : StepState) : Step :=
  { s with
    state := st
    blocker := none
    waitStart := none
    stopCause := if st = .stopping then s.stopCause else none
    holds := s.holds && !st.terminal }

namespace Cabin

/-! ### Notices and telling -/

/-- Makes a subject pending (R172). -/
def notify (c : Cabin) (s : Subject) (i : Option Indication := none) : Cabin := { c with notices := pend c.notices s i }

/-- Leaves tasks to be told inside the present command, after those already to be told (log 3). -/
def spawn (c : Cabin) (l : List Task) : Cabin := { c with agenda := c.agenda ++ l }

/-! ### Docks and axes -/

def dock (c : Cabin) (d : Dock) : DockRec := c.docks.get d

def setDock (c : Cabin) (d : Dock) (r : DockRec) : Cabin := { c with docks := c.docks.set d r }

def modDock (c : Cabin) (d : Dock) (f : DockRec → DockRec) : Cabin := c.setDock d (f (c.dock d))

/-- The axis record of a kind in a dock. -/
def axis? (c : Cabin) (d : Dock) (k : AxisKind) : Option Axis := findAxis (c.dock d).axes k

/-- Changes the axis record of a kind. -/
def modAxis (c : Cabin) (d : Dock) (k : AxisKind) (f : Axis → Axis) : Cabin :=
  c.modDock d fun r => { r with axes := r.axes.map fun a => if a.kind = k then f a else a }

/-- The driven axis of a dock with its move record (R121). -/
def driven? (c : Cabin) (d : Dock) : Option (Axis × Move) :=
  (c.dock d).axes.findSome? fun a => a.move.map fun m => (a, m)

/-- Changes the move record of a dock's driven axis. -/
def modMove (c : Cabin) (d : Dock) (f : Move → Move) : Cabin :=
  c.modDock d fun r => { r with axes := r.axes.map fun a => { a with move := a.move.map f } }

/-- Whether a dock is READY. -/
def ready (c : Cabin) (d : Dock) : Bool := (c.dock d).state = .ready

/-- The READY docks, in dock order. -/
def readyDocks (c : Cabin) : List Dock := Dock.all.filter c.ready

/-! ### Orders and steps -/

/-- The orders on the active list, oldest first (R74). -/
def activeOrders (c : Cabin) : List Order := c.pool.active.filterMap c.pool.recs.get

/-- The order of a number on the active list. -/
def orderOf? (c : Cabin) (n : Nat) : Option Order := c.activeOrders.find? fun o => o.number = n

/-- A step by its name, with its order. -/
def step? (c : Cabin) (r : StepRef) : Option (Order × Step) :=
  match c.orderOf? r.order with
  | some o => (o.steps.find? fun s => s.index = r.index).map fun s => (o, s)
  | none => none

/-- Changes the order record of a slot. -/
def modOrder (c : Cabin) (slot : Slot) (f : Order → Order) : Cabin :=
  match c.pool.recs.get slot with
  | some o => { c with pool := { c.pool with recs := c.pool.recs.set slot (some (f o)) } }
  | none => c

/-- Changes a step of an order without a notice. -/
def modStep (c : Cabin) (o : Order) (i : Nat) (f : Step → Step) : Cabin :=
  c.modOrder o.slot fun o => { o with steps := o.steps.map fun s => if s.index = i then f s else s }

/-- Changes a step's state or noted blocker, with its ORDER notice (R101). -/
def changeStep (c : Cabin) (o : Order) (i : Nat) (f : Step → Step) : Cabin := (c.modStep o i f).notify (.order o.slot)

/-- The steps of a dock in the active orders, orders oldest first. -/
def stepsOf (c : Cabin) (d : Dock) : List (Order × Step) :=
  c.activeOrders.flatMap fun o => (o.steps.filter fun s => s.dock = d).map fun s => (o, s)

/-- The dock's step in motion (R88: at most one). -/
def movingStep? (c : Cabin) (d : Dock) : Option (Order × Step) := (c.stepsOf d).find? fun p => p.2.moving

/-- Whether a dock has a step in STARTING, RUNNING, STOPPING or REVERSING. -/
def inMotion (c : Cabin) (d : Dock) : Bool := (c.movingStep? d).isSome

/-- The dock's step whose claim its reservation holds (R42, R45). -/
def claimant? (c : Cabin) (d : Dock) : Option (Order × Step) := (c.stepsOf d).find? fun p => p.2.holds

/-- The sweep a step claims from a start position (R42, R45). -/
def sweepOf (c : Cabin) (s : Step) (start : Nat) : CellSet :=
  if s.kind = .homing then (c.dock s.dock).fullSweep s.axis else (c.dock s.dock).sweep s.axis start s.target

end Cabin

end Sys2Proof.Machine
end

