-- ==== Sys2Proof/Machine/Layouts.lean ====
section
/-! DEFINITION. The Layout Table: validation (R61 to R64), the current-layout match (R65, R66), writing and retiring
(R53, R58 to R60), and the dirty set (R69). -/

namespace Sys2Proof.Machine

open Sys2Proof

/-! ### Matching and validation (R61 to R63) -/

/-- An entry is matched: its dock is READY and holds a unit of the expected kind (R61). -/
def Entry.matched (e : Entry) (docks : PerDock DockRec) : Bool :=
  let r := docks.get e.dock
  r.state = .ready && match r.identity, e.expected with
    | none, _ => false
    | some _, .any => true
    | some i, .only k => i.kind = k

/-- A target clamped to the unit: millimetres to the slide travel, a station index to the last station (R62, R65, R79). -/
def Axis.clampTarget (a : Axis) (e : GeomEntry) (v : Nat) : Nat :=
  if a.kind = .slide then min v a.travelMm else min v (e.lastStation a.kind)

/-- The stations (or shifts) validation places a targeted axis at; none leaves it at its posture (R62). -/
def finalPlaces (r : DockRec) (e : GeomEntry) (targets : List (AxisKind × Nat)) (k : AxisKind) : Option (List Nat) :=
  match targets.find? fun t => t.1 = k, findAxis r.axes k with
  | some t, some a =>
    if a.enabled then
      let v := a.clampTarget e t.2
      some (if k = .slide then shiftSet v v else [v])
    else none
  | _, _ => none

/-- The final footprint of a dock under the targets of its matched entry, or of no entry (R62). -/
def DockRec.finalFootprint (r : DockRec) (targets : List (AxisKind × Nat)) : CellSet :=
  match r.geometry, r.placement with
  | some e, some pl => span e pl.place (poseWith e r.axes (finalPlaces r e targets))
  | _, _ => .empty

/-- The dock pairs in the order of R63. -/
def dockPairs : List (Dock × Dock) :=
  [(.d1, .d2), (.d1, .d3), (.d1, .d4), (.d1, .d5), (.d2, .d3), (.d2, .d4), (.d2, .d5), (.d3, .d4), (.d3, .d5), (.d4, .d5)]

/-- The validation state of a list of entries against the docks (R63). -/
def validate (docks : PerDock DockRec) (entries : List Entry) : Validation :=
  let matchedEntries := entries.filter fun e => e.matched docks
  let isMatched (d : Dock) : Bool := matchedEntries.any fun e => e.dock = d
  let finals : PerDock CellSet := .ofFn fun d =>
    (docks.get d).finalFootprint (match matchedEntries.find? fun e => e.dock = d with
      | some e => e.targets
      | none => [])
  let examined (p : Dock × Dock) : Bool :=
    (docks.get p.1).state = .ready && (docks.get p.2).state = .ready && (isMatched p.1 || isMatched p.2)
  if matchedEntries.isEmpty then .noMatch
  else
    match dockPairs.find? fun p => examined p && !((finals.get p.1).inter (finals.get p.2)).isEmpty with
    | some p => .infeasible p.1 p.2
    | none => if matchedEntries.length = entries.length then .feasible else .partial_

/-! ### The current-layout match (R65) -/

/-- A target is met by the dock's axis (R65). -/
def targetMet (r : DockRec) (t : AxisKind × Nat) : Bool :=
  match findAxis r.axes t.1, r.geometry with
  | some a, some e =>
    let v := a.clampTarget e t.2
    a.ref = .referenced && if a.kind = .slide then absDiff (millimetres a.count a.pitch) v ≤ 5 else a.stationAt e a.count = v
  | _, _ => true

/-- A record equals the current posture (R65). -/
def LayoutRec.equalsPosture (l : LayoutRec) (docks : PerDock DockRec) : Bool :=
  (l.validation = .feasible || l.validation = .partial_) &&
    (l.entries.filter fun e => e.matched docks).all fun e => e.targets.all (targetMet (docks.get e.dock))

/-- The lowest-numbered record that equals the current posture (R65); the live records stand in number order. -/
def LayoutTable.computeMatch (t : LayoutTable) (docks : PerDock DockRec) : Option Nat :=
  (t.live.find? fun l => l.equalsPosture docks).map (·.number)

/-- The live record of a number (R50). -/
def LayoutTable.find? (t : LayoutTable) (n : Nat) : Option LayoutRec := t.live.find? fun l => l.number = n

/-- A record put in its place in number order. -/
def LayoutTable.put (t : LayoutTable) (l : LayoutRec) : LayoutTable :=
  { t with live := (t.live.takeWhile fun x => x.number < l.number) ++ l :: t.live.filter fun x => l.number < x.number }

/-- A number joins the dirty set, once (R69); the set is kept in number order. -/
def joinDirty (l : List Nat) (n : Nat) : List Nat :=
  (l.filter fun x => x < n) ++ n :: l.filter fun x => n < x

namespace Cabin

/-! ### Revalidation (R64, R66) -/

/-- One record validated, with its notice when the state changes (R64). -/
def validateOne (c : Cabin) (n : Nat) : Cabin :=
  match c.layouts.find? n with
  | none => c
  | some l =>
    let v := validate c.docks l.entries
    if v = l.validation then c
    else { c with layouts := c.layouts.put { l with validation := v } }.notify (.layout n)

/-- The match recomputed; on a change POSTURE of every READY dock, and of the dock that caused it, is pending (R66), in
the order D1 to D5: DESIGN CHOICE, log 61. -/
def rematch (c : Cabin) (also : Option Dock := none) : Cabin :=
  let m := c.layouts.computeMatch c.docks
  if m = c.layouts.match_ then c
  else
    (Dock.all.filter fun d => c.ready d || also = some d).foldl (fun c d => c.notify (.posture d))
      { c with layouts := { c.layouts with match_ := m } }

/-- Every live record validated, in number order, then the match recomputed: the Layout Table told of a map settling, a trim, a
posture change, or a dock entering or leaving READY (R64, R66). The LAYOUT subjects join the pending notices in that order:
DESIGN CHOICE, log 61. -/
def revalidate (c : Cabin) (also : Option Dock := none) : Cabin :=
  ((c.layouts.live.map (·.number)).foldl validateOne c).rematch also

/-! ### Writing and retiring (R58 to R60) -/

/-- The owner check of R53 for a class and profile. -/
def ownerOk (cls : ReqClass) (profile owner : Nat) : Bool :=
  match cls with
  | .body | .gateway => owner = 0 || owner = profile
  | _ => true

/-- The number a write selects: its own, or for 0 the lowest free USER number (R58). -/
def selectNumber (c : Cabin) (n : Nat) : Option Nat :=
  if n = 0 then (List.range 18).map (· + 7) |>.find? fun k => (c.layouts.find? k).isNone else some n

/-- The generation after a write (R54). -/
def nextGeneration : Option LayoutRec → Nat
  | none => 1
  | some l => if l.generation = 65535 then 1 else l.generation + 1

/-- A write that has passed every check (R59 steps 1 to 5). A live record whose validation state changes has its notice
at the validation already (R64). -/
def writeLayout (c : Cabin) (n : Nat) (k : Contents) : Cabin :=
  let old := c.layouts.find? n
  let l := k.record n (nextGeneration old) .pending
  let v := validate c.docks l.entries
  let t := c.layouts.put { l with validation := v }
  let c := { c with layouts := { t with dirty := joinDirty t.dirty n } }
  let c := if old.any fun o => o.validation != v then c.notify (.layout n) else c
  c.rematch.notify (.layout n)

/-- A retire that has passed every check (R60 steps 1 to 4). -/
def retireLayout (c : Cabin) (n : Nat) : Cabin :=
  let t := { c.layouts with live := c.layouts.live.filter fun l => l.number != n, dirty := joinDirty c.layouts.dirty n }
  { c with layouts := t }.rematch.notify (.layout n) (some .retired)

end Cabin

end Sys2Proof.Machine
end

