-- ==== Sys2Proof/Machine/Claims.lean ====
section
/-! DEFINITION. The map operations with what follows each (R30, R43 to R48), requests and grants leaving the Drive Budget
Arbiter (R105, R113), and the attention field (R21). -/

namespace Sys2Proof.Machine

open Sys2Proof

/-- The sum of the grants held (R106). -/
def Arbiter.held (a : Arbiter) : Nat := (a.grants.map (·.amount)).sum

namespace Cabin

/-! ### Map operations -/

/-- The map after an operation; when it dropped a cell the Order Pool is told (R30). -/
def placeMap (c : Cabin) (m : CellMap) (dropped : Bool) : Cabin :=
  if dropped then { c with map := m }.spawn [.retryClaims] else { c with map := m }

/-- An install of `S` followed by a trim to `K`, as one map operation (R28). -/
def installTrim (c : Cabin) (h : Holder) (S K : CellSet) : Cabin :=
  let m := c.map.install h S
  c.placeMap (m.trim h K) (m.drops h K)

/-- The release of a dock (R29). -/
def releaseDock (c : Cabin) (d : Dock) : Cabin :=
  c.placeMap (c.map.release d) (c.map.drops (.dock d) .empty)

/-- The settling of a dock with its claim kept (R44). -/
def settleKeeping (c : Cabin) (d : Dock) : Cabin :=
  let F := (c.dock d).footprint
  let K := match c.map.reserved.get d with
    | some R => F.union R
    | none => F
  (c.installTrim (.dock d) F K).revalidate

/-- The settling of a dock whose claim ends: at the end of a motion (R44), and when a claim ends without motion (R43). -/
def settle (c : Cabin) (d : Dock) : Cabin :=
  let F := (c.dock d).footprint
  ({ c with map := c.map.unreserve d }.installTrim (.dock d) F F).revalidate

/-- A posture change outside the end of a motion (R45). -/
def postureOutside (c : Cabin) (d : Dock) : Cabin :=
  let F := (c.dock d).footprint
  match c.map.reserved.get d, c.claimant? d with
  | some _, some (_, s) =>
    let R := c.sweepOf s s.claimFrom
    ({ c with map := { c.map with reserved := c.map.reserved.set d (some R) } }.installTrim (.dock d) (F.union R)
      (F.union R)).revalidate
  | some R, none => (c.installTrim (.dock d) (F.union R) (F.union R)).revalidate
  | none, _ => (c.installTrim (.dock d) F F).revalidate

/-- The install-and-trims of both front holders, taken as one map operation (R47, R48). -/
def placeFront (c : Cabin) (left right : CellSet) : Cabin :=
  let m₁ := c.map.install .frontL left
  let m₂ := (m₁.trim .frontL left).install .frontR right
  c.placeMap (m₂.trim .frontR right) (m₁.drops .frontL left || m₂.drops .frontR right)

/-! ### Requests and grants leaving (R105, R113) -/

/-- A step's entry leaves the request set without a grant; if it was the head, a pass follows (R105, R108). -/
def takeBack (c : Cabin) (r : StepRef) (d : Dock) : Cabin :=
  match c.arb.requests.get d with
  | none => c
  | some q =>
    if q.step = r then
      let a := { c.arb with requests := c.arb.requests.set d none }
      if a.head = some d then { c with arb := { a with head := none } }.spawn [.pass] else { c with arb := a }
    else c

/-- A step's grant leaves the grant list. -/
def dropGrant (c : Cabin) (r : StepRef) : Cabin :=
  { c with arb := { c.arb with grants := c.arb.grants.filter fun g => g.step != r } }

/-- A released grant: it leaves the list and an arbitration pass follows (R113). -/
def releaseGrant (c : Cabin) (r : StepRef) : Cabin :=
  if c.arb.grants.any fun g => g.step = r then (c.dropGrant r).spawn [.pass] else c

/-- The start window of a dock stopped (R110). -/
def stopWindow (c : Cabin) (d : Dock) : Cabin :=
  { c with arb := { c.arb with window := c.arb.window.set d none } }

/-! ### Attention (R21) -/

/-- The attention field of a READY dock, with the lamp state it gives. -/
def setAttention (c : Cabin) (d : Dock) (a : Attention) : Cabin :=
  if c.ready d then c.modDock d fun r => { r with attention := a, lamp := if a = .none then .off else .blinkFast } else c

end Cabin

end Sys2Proof.Machine
end

