-- ==== Sys2Proof/Machine/Orders.lean ====
section
/-! DEFINITION. The Order Pool's running of the steps: leaving PENDING, start checks, claim attempts, failure, skipping
and the end of an order (R88 to R96). -/

namespace Sys2Proof.Machine

open Sys2Proof

/-- The final state of an order with no non-terminal step (R96). -/
def Order.finalState (o : Order) : OrderState :=
  if o.firstFailure.isSome then .failed
  else if o.cancelTaken then .cancelled
  else if o.steps.all fun s => o.superseded.contains s.dock then .superseded
  else .done

/-- A step of RECLINE into a RESTRICTED station, or any step of TUMBLE, WELL or HEADREST (R89). -/
def Step.restricted (s : Step) (r : DockRec) : Bool :=
  match s.axis with
  | .tumble | .well | .headrest => true
  | .slide => false
  | .recline =>
    s.kind = .move && match r.geometry, findAxis r.axes .recline with
      | some e, some a => stationFlag e.recline (a.stationAt e s.target)
      | _, _ => false

/-- The fold-path channel of a fold step (R89). -/
def Step.foldChannel (s : Step) : Channel := if s.axis = .well then .lid else .back

/-- Whether a step is a fold step as it leaves PENDING (R89). -/
def Step.folds (s : Step) (r : DockRec) : Bool :=
  s.kind = .move && s.axis != .slide && match r.geometry, findAxis r.axes s.axis with
    | some e, some a => a.stationAt e a.count < a.stationAt e s.target
    | _, _ => false

/-- The record of a channel in a dock. -/
def DockRec.chan? (r : DockRec) (ch : Channel) : Option Chan := r.chans.find? fun x => x.kind = ch.kind

namespace Cabin

/-! ### The end of an order (R96) -/

/-- The attention of every dock that names an order becomes NONE, but for one the step's failure has set (R21). -/
def clearAttention (c : Cabin) (number : Nat) : Cabin :=
  (Dock.all.filter fun d => (c.dock d).attention = .wait number).foldl (fun c d => c.setAttention d .none) c

/-- An order with no non-terminal step ends: final state, slot to the tail of the free list, attentions, jog record. -/
def closeOrder (c : Cabin) (slot : Slot) : Cabin :=
  match c.pool.recs.get slot with
  | none => c
  | some o =>
    if c.pool.active.contains slot && o.steps.all fun s => s.state.terminal then
      let pool := { c.pool with
        recs := c.pool.recs.set slot (some { o with state := o.finalState })
        active := c.pool.active.filter fun s => s != slot
        free := c.pool.free ++ [slot] }
      let jog := match c.jog with
        | some j => if j.order = o.number then none else some j
        | none => none
      ({ c with pool := pool, jog := jog }.clearAttention o.number).notify (.order slot)
    else c

/-! ### Skipping and failing (R95) -/

/-- The claim of a step that ends without having moved ends with it (R43). -/
def endClaim (c : Cabin) (s : Step) : Cabin := if s.holds then c.settle s.dock else c

/-- A step in PENDING, CLAIMING or POWERING becomes SKIPPED, and its claim ends (R43, R95). -/
def skipClaim (c : Cabin) (o : Order) (s : Step) : Cabin := (c.changeStep o s.index fun x => x.enter .skipped).endClaim s

/-- A step in PENDING, CLAIMING or POWERING becomes SKIPPED: its claim ends, its request is taken back (R43, R86, R95). -/
def skipStep (c : Cabin) (o : Order) (s : Step) : Cabin := (c.skipClaim o s).takeBack (o.ref s) s.dock

/-- Every step of an order in PENDING, CLAIMING or POWERING becomes SKIPPED: the claims end, then the requests are taken
back (R95, R97). -/
def skipWaiting (c : Cabin) (slot : Slot) : Cabin :=
  match c.pool.recs.get slot with
  | none => c
  | some o =>
    let l := o.steps.filter fun s => s.state.waiting
    l.foldl (fun c s => c.takeBack (o.ref s) s.dock) (l.foldl (fun c s => c.skipClaim o s) c)

/-- The first failure of an order, written when there is none and no cancel has been taken (R95, R99). -/
def writeFirstFailure (c : Cabin) (slot : Slot) (f : FirstFailure) : Cabin :=
  match c.pool.recs.get slot with
  | none => c
  | some o =>
    if o.firstFailure.isNone && !o.cancelTaken then
      { c with pool := { c.pool with recs := c.pool.recs.set slot (some { o with firstFailure := some f }) } }.notify
        (.order slot)
    else c

/-- A step becomes FAILED; OBSTRUCTED shows in the attention of its dock (R21, R139). -/
def enterFailed (c : Cabin) (o : Order) (s : Step) (why : Reason) (ri : Bool) : Cabin :=
  let c := c.changeStep o s.index fun x => { x.enter .failed with failure := some (why, ri) }
  if why = .obstructed then c.setAttention s.dock .obstructed else c

/-- The order of a failed step handled by R95 and R96. -/
def handleFailure (c : Cabin) (o : Order) (s : Step) (why : Reason) (ri : Bool) : Cabin :=
  ((c.writeFirstFailure o.slot ⟨s.dock, s.axis, why, ri⟩).skipWaiting o.slot).closeOrder o.slot

/-- A step becomes FAILED, and its order is handled by R95 and R96. What the step held is not touched here. -/
def markFailed (c : Cabin) (o : Order) (s : Step) (why : Reason) (ri : Bool) : Cabin :=
  (c.enterFailed o s why ri).handleFailure o s why ri

/-- A step in PENDING, CLAIMING or POWERING fails: its claim ends, its order is handled, and its request is taken back,
with a pass if it was the head's (R43, R95, R112). -/
def failWaiting (c : Cabin) (o : Order) (s : Step) (why : Reason) : Cabin :=
  (((c.enterFailed o s why false).endClaim s).handleFailure o s why false).takeBack (o.ref s) s.dock

/-! ### Claim attempts (R90) -/

/-- A failed attempt: the blocker noted, the wait start time kept or set, the attention of the dock (R90). A REFERENCE_WAIT
removes the wait start time of a step that waited on a blocker before: DEDUCED, log 50. -/
def noteBlocker (c : Cabin) (o : Order) (s : Step) (b : Blocker) : Cabin :=
  let timed := b != .referenceWait
  let f (x : Step) : Step := { x with blocker := some b, waitStart := if timed then x.waitStart.or (some c.now) else none }
  let c' := if s.blocker = some b then c.modStep o s.index f else c.changeStep o s.index f
  if timed then c'.setAttention s.dock (.wait o.number) else c'

/-- A successful attempt: the claim is held, the step is POWERING and requests a grant (R90). -/
def enterPowering (c : Cabin) (o : Order) (s : Step) (start : Nat) : Cabin :=
  (c.changeStep o s.index fun x => { x.enter .powering with holds := true, claimFrom := start }).spawn [.request (o.ref s)]

/-- The fold-path channel that holds a fold step back (R90 condition 3). -/
def foldBlock? (c : Cabin) (s : Step) : Option Channel :=
  match (c.dock s.dock).chan? s.foldChannel with
  | some ch => if s.fold && ch.state.present then some s.foldChannel else none
  | none => none

/-- One claim attempt of a step in CLAIMING of an ACTIVE order (R90). -/
def attempt (c : Cabin) (r : StepRef) : Cabin :=
  match c.step? r with
  | none => c
  | some (o, s) =>
    if o.state != .active || s.state != .claiming then c
    else
      match c.axis? s.dock s.axis with
      | none => c
      | some a =>
        let faulted : Bool := a.ref = .referenceFault
        let early := match a.faultTime with
          | some t => decide (c.now < t + 30000)
          | none => false
        if faulted && s.kind != .homing then c.failWaiting o s .referenceFault
        else if faulted && early then c.noteBlocker o s .referenceWait
        else
          match c.foldBlock? s with
          | some ch => c.noteBlocker o s (.object ch)
          | none =>
            if s.holds then c.enterPowering o s s.claimFrom
            else
              match c.map.claim s.dock (c.sweepOf s a.count) with
              | .ok m => { c with map := m }.enterPowering o s a.count
              | .error (.dock d) => c.noteBlocker o s (.dock d)
              | .error h => c.noteBlocker o s (.external h)

/-- An arrival of R91: every step in CLAIMING of every ACTIVE order makes one attempt, in order. -/
def retryClaims (c : Cabin) : Cabin :=
  c.spawn ((c.activeOrders.filter fun o => o.state = .active).flatMap fun o =>
    (o.steps.filter fun s => s.state = .claiming).map fun s => Task.attempt (o.ref s))

/-! ### Leaving PENDING (R88, R89) -/

/-- The step of a dock that may leave PENDING: the first of its order and dock that is not DONE, its order ACTIVE, no
step of another order for the dock in motion (R88). -/
def candidate? (c : Cabin) (d : Dock) : Option (Order × Step) :=
  c.activeOrders.findSome? fun o =>
    match o.steps.find? fun s => s.dock = d && s.state != .done with
    | none => none
    | some s =>
      if o.state = .active && s.state = .pending && !((c.stepsOf d).any fun p => p.1.number != o.number && p.2.moving) then
        some (o, s)
      else none

/-- The start checks of a step that leaves PENDING (R89). -/
def startChecks (c : Cabin) (o : Order) (s : Step) : Cabin :=
  match c.axis? s.dock s.axis with
  | none => c
  | some a =>
    if !a.enabled then c.failWaiting o s .driveFault
    else if s.kind = .move && a.ref = .referenced && a.count = s.target then
      ((c.changeStep o s.index fun x => x.enter .done).spawn [.testDock s.dock]).closeOrder o.slot
    else if s.restricted (c.dock s.dock) && (c.dock s.dock).occupancy.stops then c.failWaiting o s .occupied
    else
      (c.changeStep o s.index fun x => { x.enter .claiming with fold := s.folds (c.dock s.dock) }).spawn
        [.attempt (o.ref s)]

/-- The condition for leaving PENDING tested for a dock (R88). -/
def testDock (c : Cabin) (d : Dock) : Cabin :=
  match c.candidate? d with
  | some (o, s) => c.startChecks o s
  | none => c

/-- A step in POWERING makes its request; the new entry causes a pass (R105, R108). -/
def makeRequest (c : Cabin) (r : StepRef) : Cabin :=
  match c.step? r with
  | none => c
  | some (o, s) =>
    match c.axis? s.dock s.axis with
    | none => c
    | some a =>
      if s.state = .powering then
        { c with arb := { c.arb with
            requests := c.arb.requests.set s.dock (some ⟨r, o.urgency.level, a.rated, c.now + 15000⟩) } }.spawn [.pass]
      else c

end Cabin

end Sys2Proof.Machine
end

