-- ==== Sys2Proof/Machine/Channels.lean ====
section
/-! DEFINITION. Presence channels and strip electrodes (R147 to R157, R162), and the occupancy of a dock (R158, R159). -/

namespace Sys2Proof.Machine

open Sys2Proof

/-! ### One channel -/

/-- The thresholds in force for a kind of channel (R151, R162). -/
def Limits.thresholds (l : Limits) : ChanKind → Thresholds
  | .cushion => l.cushion
  | .back => l.back
  | .lid => l.lid
  | .strip => l.strip

/-- Whether a count lies within the tuning band: 800 plus or minus an eighth of the band setting (R155). -/
def Limits.inBand (l : Limits) (n : Nat) : Bool := 800 - l.tuningBand / 8 ≤ n && n ≤ 800 + l.tuningBand / 8

/-- A channel record as it is made, in TUNING (R147, R153). -/
def newChan (k : ChanKind) : Chan :=
  { kind := k
    state := .tuning
    raw := none
    filtered := none
    ref16 := none
    delta := 0
    proxRise := 0
    touchRise := 0
    touchFall := 0
    proxFall := 0
    comp := 512
    search := 256
    adjusted := 0
    fault := none
    clean := 0
    suppression := none
    retune := false }

/-- The four consecutive counts set to 0. -/
def Chan.noCounts (ch : Chan) : Chan := { ch with proxRise := 0, touchRise := 0, touchFall := 0, proxFall := 0 }

/-- The beginning of tuning (R153); a re-tune that was due is no longer. -/
def Chan.beginTuning (ch : Chan) : Chan :=
  { ch.noCounts with state := .tuning, comp := 512, search := 256, adjusted := 0, clean := 0, fault := none, retune := false }

/-- Entry to FAULT with cause SATURATED (R152). -/
def Chan.saturate (ch : Chan) : Chan :=
  { ch.noCounts with state := .fault, fault := some .saturated, clean := 0, retune := false }

/-- The reference, a whole count (R147). -/
def Chan.reference (ch : Chan) : Nat := ch.ref16.getD 0 / 16

/-- The filter step (R149 step 2), rounded down. -/
def filterCount (F raw beta : Nat) : Nat := ((F : Int) + ((raw : Int) - F) * beta / 256).toNat

/-- The reference step (R149 step 3), truncated. -/
def trackReference (L16 F : Nat) : Nat := ((L16 : Int) + ((F : Int) * 16 - L16).tdiv 64).toNat

/-- A consecutive count: raised up to its limit while its condition holds, else 0 (R150). -/
def consecutive (limit n : Nat) (holds : Bool) : Nat := if holds then min limit (n + 1) else 0

/-- The counts and then the state (R150). -/
def Chan.judge (ch : Chan) (t : Thresholds) : Chan :=
  let pr := consecutive 4 ch.proxRise (t.prox ≤ ch.delta)
  let tr := consecutive 4 ch.touchRise (t.touch ≤ ch.delta)
  let tf := consecutive 6 ch.touchFall (ch.delta < t.touch - t.hysteresis)
  let pf := consecutive 6 ch.proxFall (ch.delta < t.prox - t.hysteresis)
  let st := match ch.state with
    | .none => if tr = 4 then .touch else if pr = 4 then .prox else .none
    | .prox => if tr = 4 then .touch else if pf = 6 then .none else .prox
    | .touch => if pf = 6 then .none else if tf = 6 then .prox else .touch
    | st => st
  { ch with proxRise := pr, touchRise := tr, touchFall := tf, proxFall := pf, state := st }

/-- An answered frame in NONE, PROX or TOUCH (R149). `hold`: a band exit sets re-tune due in place of tuning. A band exit that
begins tuning ends the frame for the channel, with delta as it stood: DEDUCED, log 82. -/
def Chan.track (ch : Chan) (l : Limits) (hold : Bool) (raw : Nat) : Chan :=
  if raw = 4095 then ch.saturate
  else
    let F := filterCount (ch.filtered.getD raw) raw l.presenceFilter
    let L := if ch.state = .none then trackReference (ch.ref16.getD (16 * raw)) F else ch.ref16.getD (16 * raw)
    let ch := { ch with filtered := some F, ref16 := some L }
    let exits := ch.state = .none && !l.inBand (L / 16)
    if exits && !hold then ch.beginTuning
    else { ch with delta := L / 16 - F, retune := ch.retune || exits }.judge (l.thresholds ch.kind)

/-- A tuning that ends in an error (R155). -/
def Chan.tuningError (ch : Chan) (e : ChanFault) (now : Nat) : Chan :=
  { ch with state := .fault, fault := some e, suppression := some (now + 20000), retune := false }

/-- An answered frame in TUNING: an adjustment of the search (R154), or the check frame (R155). -/
def Chan.tune (ch : Chan) (l : Limits) (now raw : Nat) : Chan :=
  if ch.adjusted < 10 then
    { ch with
      comp := if raw < 800 then min 1023 (ch.comp + ch.search) else ch.comp - ch.search
      adjusted := ch.adjusted + 1
      search := max 1 (ch.search / 2) }
  else if ch.comp = 0 then ch.tuningError .compLow now
  else if 1023 ≤ ch.comp then ch.tuningError .compHigh now
  else if !l.inBand raw then ch.tuningError .outOfBand now
  else { ch.noCounts with filtered := some raw, ref16 := some (16 * raw), delta := 0, state := .none, suppression := none }

/-- An answered frame in FAULT (R152). `hold`: the strip is touched, so recovery waits for the release (R162). While the
suppression timer runs, a clean count that reaches 6 on a touched strip sets no re-tune due: DESIGN CHOICE, log 88. -/
def Chan.recover (ch : Chan) (hold : Bool) (raw : Nat) : Chan :=
  if raw = 4095 then { ch with clean := 0, fault := some .saturated }
  else if ch.fault = some .saturated then
    let n := min 6 (ch.clean + 1)
    if n = 6 && ch.suppression.isNone then
      if hold then { ch with clean := n, retune := true } else ch.beginTuning
    else { ch with clean := n }
  else ch

/-- A channel takes the raw count of an answered frame (R149 to R155). `hold` keeps a band exit from tuning, `touched`
keeps a saturation recovery from it. -/
def Chan.take (ch : Chan) (l : Limits) (now : Nat) (hold touched : Bool) (raw : Nat) : Chan :=
  let ch := { ch with raw := some raw }
  match ch.state with
  | .none | .prox | .touch => ch.track l hold raw
  | .tuning => ch.tune l now raw
  | .fault => ch.recover touched raw

/-- The suppression timer expires: a FAULT channel begins tuning (R153, R155), an electrode of a touched strip too (log 88). -/
def Chan.unsuppress (ch : Chan) : Chan :=
  let ch := { ch with suppression := none }
  if ch.state = .fault then ch.beginTuning else ch

/-- A channel on the return from SLEEP (R160). -/
def Chan.wake (ch : Chan) : Chan :=
  match ch.state with
  | .tuning => { ch with comp := 512, search := 256, adjusted := 0 }
  | .fault => { ch with clean := 0 }
  | _ => ch

/-- A reseed (R157 steps 1 and 2). -/
def Chan.reseed (ch : Chan) : Chan := { ch.noCounts with ref16 := some (ch.filtered.getD 0 * 16), delta := 0 }

/-! ### Occupancy (R158) -/

/-- The occupancy of a dock record, by the first row that applies (R158). -/
def DockRec.decideOccupancy (r : DockRec) : Occupancy :=
  if r.state != .ready then .unknown
  else if (r.switches.map (·.latched)).getD false then .child
  else
    match r.chan? .cushion with
    | none => .unknown
    | some ch =>
      match ch.state with
      | .touch => .occupied
      | .tuning | .fault => .unknown
      | _ => .none

namespace Cabin

/-- Occupancy decided again; a change makes POSTURE pending and is told (R158, R159). -/
def decideOccupancy (c : Cabin) (d : Dock) : Cabin :=
  let o := (c.dock d).decideOccupancy
  if o = (c.dock d).occupancy then c
  else ((c.modDock d fun r => { r with occupancy := o }).notify (.posture d)).spawn [.occupancyTold d]

/-- Changes a channel record; a change of state is told to the neighbours of a READY dock, and a CUSHION's decides the
occupancy (R156). -/
def modChan (c : Cabin) (d : Dock) (ch : Channel) (f : Chan → Chan) : Cabin :=
  match (c.dock d).chan? ch with
  | none => c
  | some x =>
    let c := c.modDock d fun r => { r with chans := r.chans.map fun y => if y.kind = ch.kind then f y else y }
    if (f x).state = x.state then c
    else
      let c := if c.ready d then c.spawn [.channelTold d ch] else c
      if ch = .cushion then c.decideOccupancy d else c

/-- The channels of a dock take the raw counts of a status frame (R148), and tell their changes (R143, R156), in the order
CUSHION, BACK, LID: DESIGN CHOICE, log 72. -/
def takeRaws (c : Cabin) (d : Dock) (raws : List Nat) : Cabin :=
  let hold := c.inMotion d
  [Channel.cushion, .back, .lid].foldl
    (fun c ch => c.modChan d ch fun x => x.take c.set.limits c.now hold false (raws.getD ch.code 0)) c

/-- Re-tunes that are due begin once no step of the dock is in motion (R153). -/
def retuneDue (c : Cabin) (d : Dock) : Cabin :=
  if c.inMotion d then c
  else
    [Channel.cushion, .back, .lid].foldl (fun c ch => c.modChan d ch fun x => if x.retune then x.beginTuning else x) c

end Cabin

end Sys2Proof.Machine
end

