-- ==== Sys2Proof/Machine/Motion.lean ====
section
/-! DEFINITION. The Motion Generator: positions (R114 to R118), profiles (R119, R120), moves and setpoints (R121 to R124),
the ends of motion (R126 to R130) and the learning of baselines (R145). -/

namespace Sys2Proof.Machine

open Sys2Proof

/-! ### Positions (R115 to R117) -/

/-- A difference of Hall counts, signed across the wrap (R115). -/
def hallChange (reported node : Nat) : Int :=
  let u := (reported + 65536 - node % 65536) % 65536
  if u < 32768 then (u : Int) else (u : Int) - 65536

/-- The tracked position: the count moved outward by the overrun (R115). -/
def Axis.tracked (a : Axis) : Int :=
  if a.count = 0 then -(a.overrun : Int) else if a.overrun = 0 then a.count else (a.travel : Int) + a.overrun

/-- The count and overrun of a tracked position (R115). -/
def Axis.place (a : Axis) (p : Int) : Axis :=
  if p < 0 then { a with count := 0, overrun := min 65535 (-p).toNat }
  else if p.toNat ≤ a.travel then { a with count := p.toNat, overrun := 0 }
  else { a with count := a.travel, overrun := min 65535 (p.toNat - a.travel) }

/-- A change added to the tracked position (R115). -/
def Axis.moveBy (a : Axis) (change : Int) : Axis := a.place (a.tracked + change)

/-- The drift taken into the tracked position as a move begins (R117, R121). -/
def Axis.takeDrift (a : Axis) : Axis := { a.moveBy a.drift with drift := 0 }

/-- A reported Hall count applied by the drive condition; the mark says that an undriven axis's posture has changed
(R115, R117, R129). -/
def Axis.takeCount (a : Axis) (reported : Nat) : Axis × Bool :=
  let ch := hallChange reported a.nodeCount
  let a := { a with nodeCount := reported }
  match a.cond with
  | .driven => (a.moveBy ch, false)
  | .settling => ({ a.moveBy ch with cond := .idle }, ch != 0)
  | .idle =>
    let s := a.drift + ch
    if -4 ≤ s ∧ s ≤ 4 then ({ a with drift := s }, false) else ({ a.moveBy s with drift := 0 }, true)

/-- A REFERENCED axis whose overrun exceeds a sixteenth of its travel (R116). -/
def Axis.overran (a : Axis) : Bool := a.ref = .referenced && a.travel < a.overrun * 16

/-! ### Profiles (R119, R120) -/

/-- The automatic profile values (R119). -/
def autoProfile (travel maxSpeed : Nat) : Profile :=
  ⟨clampTo 8 400 (travel / 8), clampTo 4 64 (travel / 32), 25, maxSpeed⟩

/-- The override place of a unit kind and axis kind (R120). -/
def Settings.override? (s : Settings) (u : UnitKind) (k : AxisKind) : Option Override :=
  s.overrides.find? fun o => o.unit = u && o.axis = k

/-- The values in force for an axis (R120). -/
def Axis.inForce (a : Axis) (o : Option Override) : Profile :=
  match o with
  | none => a.auto
  | some o =>
    { ramp := o.ramp.getD a.auto.ramp
      creep := o.creep.getD a.auto.creep
      creepSpeed := o.creepSpeed.getD a.auto.creepSpeed
      speed := match o.speed with
        | some v => min v a.maxSpeed
        | none => a.auto.speed }

/-- Full speed: the speed in force, halved for SLIDE while the dock is occupied or its occupancy unknown (R123). -/
def Move.fullSpeed (m : Move) (k : AxisKind) (o : Occupancy) : Nat :=
  if k = .slide && o.stops then m.profile.speed / 2 else m.profile.speed

/-- Creep speed (R123). -/
def Move.creepSpeed (m : Move) (k : AxisKind) (o : Occupancy) : Nat := m.fullSpeed k o * m.profile.creepSpeed / 100

/-! ### The shape of a move (R121, R122, R124) -/

/-- A distance in the move's direction (R124). -/
def Direction.along (d : Direction) (change : Int) : Int :=
  match d with
  | .increase => change
  | .decrease => -change

def Direction.reverse : Direction → Direction
  | .increase => .decrease
  | .decrease => .increase

/-- HOMING, and every move to 0 or T, is extreme; every other move is plain (R121). -/
def Move.extreme (m : Move) (travel : Nat) : Bool := m.kind = .homing || m.target = 0 || m.target = travel

/-- Progress: the distance covered in the move's direction, 0 when the axis was pushed back (R124). -/
def Move.progress (m : Move) (a : Axis) : Nat := (m.dir.along (a.tracked - m.start)).toNat

/-- The distance still to cover in the move's direction. -/
def Move.remaining (m : Move) (a : Axis) : Int := m.dir.along ((m.target : Int) - a.tracked)

/-- The segment at a progress; a HOMING move is creep throughout (R122, R124, R130). -/
def Move.segment (m : Move) (x : Nat) : Segment :=
  if m.kind = .homing then .creep
  else if x < m.rampEff then .rampUp
  else if x < m.rampEff + m.cruise then .cruise
  else if x < m.rem then .rampDown
  else .creep

/-- The setpoint at a progress, for a full speed and creep speed (R124, R130). -/
def Move.setpointAt (m : Move) (vmax vc x : Nat) : Nat :=
  match m.segment x with
  | .rampUp => vc + (vmax - vc) * x / m.rampEff
  | .cruise => vmax
  | .rampDown => vc + (vmax - vc) * (m.rem - x) / m.rampEff
  | .creep => vc

/-- The setpoint of a STOPPING ramp-down (R128). -/
def StopPlan.setpointAt (p : StopPlan) (vc : Nat) (z : Int) : Nat :=
  if p.length > 0 && vc < p.setpoint then vc + (p.setpoint - vc) * z.toNat / p.length else vc

/-- The part of the stop length still to cover (R128). On an axis pushed back behind the point where STOPPING began it exceeds
the stop length: DESIGN CHOICE, log 71. -/
def Move.stopLeft (m : Move) (a : Axis) (p : StopPlan) : Int := (p.length : Int) - m.dir.along (a.tracked - p.origin)

/-- A plain move's arrival: within 2 counts of the target or past it (R126). -/
def Move.arrived (m : Move) (a : Axis) : Bool := m.remaining a ≤ 2

/-- The watch record of a move as it is granted (R134, R135). -/
def newWatch (l : Limits) (a : Axis) : Watch :=
  { beta := l.currentFilter
    margin := if a.kind = .slide then l.slideMargin else l.axisMargin
    reverse := l.reverseDistance
    filtered := none
    judging := false
    currentCount := 0
    speedCount := 0
    previous := none
    sums := a.baselines.map fun _ => (0, 0)
    occupiedSeen := false
    obstruction := none
    reverseEnd := none
    reverseFirst := false
    reverseFresh := false
    reverseSpeed := 0 }

/-- The move record of a step granted on an axis (R121, R122). Before the first drive frame the last setpoint sent is 0:
DESIGN CHOICE, log 52. -/
def newMove (l : Limits) (p : Profile) (a : Axis) (r : StepRef) (kind : StepKind) (target : Nat) : Move :=
  let d := absDiff target a.count
  let creep := min p.creep d
  let ramp := min p.ramp ((d - creep) / 2)
  { step := r
    kind := kind
    start := a.count
    target := target
    dir := if a.count < target then .increase else .decrease
    distance := d
    creepEff := creep
    rem := d - creep
    rampEff := ramp
    cruise := (d - creep) - 2 * ramp
    profile := p
    lastSetpoint := 0
    stall := none
    runLength := 0
    stop := none
    watch := newWatch l a }

/-! ### Baselines (R136, R145) -/

/-- The baseline station of a count (R136). -/
def Axis.baselineStation (a : Axis) (e : Option GeomEntry) (p : Nat) : Nat :=
  if a.kind = .slide then min 3 (p * 4 / a.travel)
  else match e with
    | some e => a.stationAt e p
    | none => 0

/-- A baseline after learning from the judged frames of its station (R145). -/
def learnOne (reseed : Bool) (b : Nat) (s : Nat × Nat) : Nat :=
  if s.2 = 0 then b
  else if reseed then s.1 / s.2
  else ((b : Int) + (((s.1 / s.2 : Nat) : Int) - b).tdiv 8).toNat

/-- An axis that learns from the watch record of a completed move (R145). -/
def Axis.learn (a : Axis) (m : Move) : Axis :=
  if m.kind = .homing || m.watch.occupiedSeen || m.watch.obstruction.isSome then a
  else
    { a with
      baselines := (a.baselines.zip m.watch.sums).map fun p => learnOne a.reseed p.1 p.2
      reseed := a.reseed && m.watch.sums.all fun s => s.2 = 0 }

namespace Cabin

/-- The index of an axis in declaration order (sections 11.2, 11.5). -/
def axisIndex (c : Cabin) (d : Dock) (k : AxisKind) : Nat := ((c.dock d).axes.map (·.kind)).idxOf k

/-- The profile in force for an axis of a dock (R120). -/
def profileOf (c : Cabin) (d : Dock) (a : Axis) : Profile :=
  match (c.dock d).identity with
  | some i => a.inForce (c.set.override? i.kind a.kind)
  | none => a.auto

/-- A REFERENCE notice of an axis (R118). -/
def notifyReference (c : Cabin) (d : Dock) (k : AxisKind) (i : Indication) : Cabin :=
  (c.notify (.reference d (c.axisIndex d k)) (some i)).notify (.posture d)

/-- Entry to REFERENCE_FAULT: fault time, suppression timer, notices (R118). -/
def enterReferenceFault (c : Cabin) (d : Dock) (k : AxisKind) (v : Nat) : Cabin :=
  (c.modAxis d k fun a =>
    { a with ref := .referenceFault, faultTime := some c.now, suppression := some (c.now + 30000) }).notifyReference d k
    (.fault v)

/-- The overrun fault of an axis that is tested: its overrun is set to 0 (R116). -/
def overrunFault (c : Cabin) (d : Dock) (a : Axis) : Cabin :=
  (c.modAxis d a.kind fun a => { a with overrun := 0 }).enterReferenceFault d a.kind a.overrun

/-! ### The beginning of a move (R121) -/

/-- A move begins at a grant: drift, move record, motor command. A plain move whose start lies within 2 counts of its target
needs no motion and arrives at once (R121), before its fold-path channel is read (R143): DESIGN CHOICE, log 55; its release
is taken once the running pass has stopped (R108): DESIGN CHOICE, log 70. A fold step whose fold-path channel is in TOUCH
(R143) fails, and releases its grant, once the running pass has stopped too, its amount still in the sum held until then:
DESIGN CHOICE, log 84. -/
def beginMove (c : Cabin) (o : Order) (s : Step) : Cabin :=
  match c.axis? s.dock s.axis with
  | none => c
  | some a =>
    let a := a.takeDrift
    let m := newMove c.set.limits (c.profileOf s.dock a) a (o.ref s) s.kind s.target
    let c := c.modAxis s.dock s.axis fun x => { x.takeDrift with cond := .driven, move := some m }
    if !m.extreme a.travel && m.distance ≤ 2 then c.spawn [.arriveAtOnce s.dock]
    else
      let occ := (c.dock s.dock).occupancy
      let v := m.setpointAt (m.fullSpeed s.axis occ) (m.creepSpeed s.axis occ) 0
      let c := c.modDock s.dock fun r => { r with command := .drive (c.axisIndex s.dock s.axis) m.dir v }
      if s.fold then c.spawn [.foldAtGrant s.dock] else c

/-! ### The end of a motion (R129) -/

/-- An end of motion: brake, record, Order Pool (`decide`), map, notices, re-tunes (R129, R153). The re-tunes that are due begin
before the claim attempts, the test of the dock's next step and the release of the grant (R94): DESIGN CHOICE, log 89. -/
def endMotion (c : Cabin) (d : Dock) (keep : Bool) (decide : Cabin → Order → Step → Cabin) : Cabin :=
  match c.driven? d with
  | none => c
  | some (a, m) =>
    let c := c.modDock d fun r => { r with command := .brake }
    let c := (c.modAxis d a.kind fun a => { a with cond := .settling, move := none }).stopWindow d
    let c := match c.step? m.step with
      | some (o, s) => decide c o s
      | none => c
    let c := if keep then c.settleKeeping d else c.settle d
    (c.notify (.posture d)).retuneDue d

/-- The motion of a dock ends with its step DONE: baselines, end of motion, then the next step and the release (R94). -/
def finishMove (c : Cabin) (d : Dock) : Cabin :=
  match c.driven? d with
  | none => c
  | some (a, m) =>
    ((c.modAxis d a.kind fun a => a.learn m).endMotion d false fun c o s =>
      (c.changeStep o s.index fun x => x.enter .done).closeOrder o.slot).spawn [.testDock d, .release m.step]

/-- The motion of a dock ends with its step FAILED (R95, R129). The map settles the dock before the order's other steps are
skipped and their requests taken back, so that no pass comes before the attempts that the dropped cells call for: DEDUCED,
log 23. -/
def failMove (c : Cabin) (d : Dock) (why : Reason) (ri : Bool := false) : Cabin :=
  match c.driven? d with
  | none => c
  | some (_, m) =>
    let c' := c.endMotion d false fun c o s => c.enterFailed o s why ri
    let c' := match c.step? m.step with
      | some (o, s) => c'.handleFailure o s why ri
      | none => c'
    c'.spawn [.testDock d, .release m.step]

/-- The end of a STOPPING ramp-down: the step goes on by its stop cause (R94, R128). A PAUSE-stopped one whose dock a newer
order has superseded ends SKIPPED, as R86 leaves it no state but STOPPING to be live in: DEDUCED, log 49. -/
def endStopping (c : Cabin) (d : Dock) : Cabin :=
  match c.driven? d with
  | none => c
  | some (_, m) =>
    match c.step? m.step with
    | none => c
    | some (o, s) =>
      if s.state != .stopping then c
      else if s.stopCause = some .release then c.finishMove d
      else if s.stopCause = some .pause && o.firstFailure.isNone && !o.cancelTaken && !o.superseded.contains d then
        ((c.releaseGrant m.step).endMotion d true fun c o s => c.changeStep o s.index fun x => x.enter .claiming).spawn
          [.attempt m.step, .testDock d]
      else
        (c.endMotion d false fun c o s => (c.changeStep o s.index fun x => x.enter .skipped).closeOrder o.slot).spawn
          [.testDock d, .release m.step]

/-- A step in STARTING or RUNNING goes to STOPPING (R128); without motion, and on a HOMING move, the ramp-down ends in the
same event. -/
def stopStep (c : Cabin) (o : Order) (s : Step) (cause : StopCause) : Cabin :=
  let c' := (c.changeStep o s.index fun x => { x.enter .stopping with stopCause := some cause }).stopWindow s.dock
  match c.driven? s.dock with
  | none => c'
  | some (a, m) =>
    if s.state = .starting || s.kind = .homing then
      (c'.modDock s.dock fun r => { r with command := .brake }).spawn [.endStopping s.dock]
    else
      let plan : StopPlan := ⟨min m.rampEff (m.remaining a).toNat, m.lastSetpoint, a.tracked⟩
      c'.modMove s.dock fun m => { m with stop := some plan }

/-! ### Stalls at the end stop (R127, R130) -/

/-- The end of a homing run (R130). -/
def homed (c : Cabin) (d : Dock) (k : AxisKind) : Cabin :=
  ((c.modAxis d k fun a =>
    { a with count := 0, overrun := 0, ref := .referenced, faultTime := none, suppression := none }).notifyReference d k
    .homed).finishMove d

/-- End-stop arrival (R127). -/
def endStop (c : Cabin) (d : Dock) (a : Axis) (m : Move) : Cabin :=
  let E := if m.target = 0 then 0 else a.travel
  let e := (a.tracked - E).natAbs
  let set (c : Cabin) : Cabin := c.modAxis d a.kind fun a => { a with count := E, overrun := 0 }
  if a.ref.conservative || e * 64 ≤ a.travel then (set c).finishMove d
  else if e * 16 ≤ a.travel then ((set c).notify (.reference d (c.axisIndex d a.kind)) (some (.corrected e))).finishMove d
  else
    ((c.modAxis d a.kind fun a => { a with overrun := 0 }).enterReferenceFault d a.kind e).failMove d .referenceFault

/-! ### A dock leaves READY (R114) -/

/-- The moves of a dock removed without an end of motion: every axis IDLE, every drift 0, a brake commanded (R114). -/
def dropMoves (c : Cabin) (d : Dock) : Cabin :=
  c.modDock d fun r =>
    { r with command := .brake, axes := r.axes.map fun a => { a with cond := .idle, move := none, drift := 0 } }

end Cabin

end Sys2Proof.Machine
end

