-- ==== Sys2Proof/Machine/Obstruction.lean ====
section
/-! DEFINITION. The status frame of a READY dock as the Motion Generator and the Obstruction Monitor take it (R125, R131,
R137 to R144), stalls (R127, R138), and what presence stops (R93, R143). -/

namespace Sys2Proof.Machine

open Sys2Proof

/-- The filtered current after a frame (R135), rounded down. -/
def filterCurrent (f : Int) (I beta : Nat) : Int := f + ((I : Int) - f) * beta / 256

/-- The speed criterion: twice the advance is less than the expected advance since the previous frame; an expected advance
of 0 never meets it (R138). -/
def tooSlow (previous : Option (Nat × Nat)) (now : Nat) (advance : Int) : Bool :=
  match previous with
  | none => false
  | some (t, v) =>
    let expected := v * (now - t) / 1000
    0 < expected && 2 * advance < (expected : Int)

/-- A number added to the sums of a station (R137). -/
def addToStation (l : List (Nat × Nat)) (i I : Nat) : List (Nat × Nat) :=
  (l.zipIdx).map fun p => if p.2 = i then (p.1.1 + I, p.1.2 + 1) else p.1

/-- The stall timer at a frame: started, kept or stopped by the two conditions of R127. -/
def stallTimer (t : Timer) (now : Nat) (holds : Bool) : Timer := if holds then some (t.getD (now + 150)) else none

/-- Counts moved in the reverse direction added to an obstruction record (R144). -/
def Obstruction.cover (r : Obstruction) (n : Nat) : Obstruction := { r with covered := r.covered + n }

/-- The filtered current and the occupied-seen flag of a watch record after a frame of current `I` (R135, R140). -/
def Watch.take (w : Watch) (I : Nat) (occupied : Bool) : Watch :=
  let f : Int :=
    if w.reverseFresh && !w.reverseFirst then I
    else match w.filtered with
      | none => I
      | some f => filterCurrent f I w.beta
  { w with filtered := some f, occupiedSeen := w.occupiedSeen || occupied }

/-- What the watch record notes of a frame of the back-off once it is judged: the frame as the previous one, and that the
next is the first reverse-driven one (R135, R140). -/
def Watch.afterReverse (w : Watch) (now : Nat) : Watch :=
  { w with previous := some (now, w.reverseSpeed), reverseFirst := false, reverseFresh := w.reverseFirst }

namespace Cabin

/-! ### Obstructions (R139, R142, R144) -/

/-- The obstruction record at the present count (R144). -/
def obstructionRecord (c : Cabin) (d : Dock) (a : Axis) (m : Move) (cause : ObstCause) (ch : Option Channel)
    (filtered : Option Nat) (back : Nat) : Obstruction :=
  let st := a.baselineStation (c.dock d).geometry a.count
  ⟨cause, a.count, st, filtered, a.baselines.getD st 0, m.watch.margin, ch, back, 0⟩

/-- An obstruction record written in the step record. -/
def writeObstruction (c : Cabin) (o : Order) (s : Step) (r : Obstruction) : Cabin :=
  c.modStep o s.index fun x => { x with obstruction := some r }

/-- An obstruction of a step in STARTING, RUNNING or STOPPING (R139, R142, R143). -/
def obstruct (c : Cabin) (d : Dock) (cause : ObstCause) (ch : Option Channel) : Cabin :=
  match c.driven? d with
  | none => c
  | some (a, m) =>
    match c.step? m.step with
    | none => c
    | some (o, s) =>
      let filtered := m.watch.filtered.map Int.toNat
      match s.state with
      | .starting => (c.writeObstruction o s (c.obstructionRecord d a m cause ch none 0)).failMove d .obstructed
      | .stopping =>
        let r := c.obstructionRecord d a m cause ch filtered 0
        ((c.writeObstruction o s r).modMove d fun m => { m with watch := { m.watch with obstruction := some r } }).endStopping d
      | .running =>
        let back := min m.watch.reverse (m.progress a)
        let r := c.obstructionRecord d a m cause ch filtered back
        let c := c.writeObstruction o s r
        if back = 0 then c.failMove d .obstructed
        else
          let vc := m.creepSpeed a.kind (c.dock d).occupancy
          let watch := { m.watch with
            obstruction := some r
            currentCount := 0
            speedCount := 0
            previous := some (c.now, vc)
            reverseEnd := some (a.tracked - m.dir.along back)
            reverseFirst := true
            reverseFresh := true
            reverseSpeed := vc }
          let c := c.modMove d fun m => { m with watch := watch, stall := none }
          (c.modDock d fun r => { r with command := .brake }).changeStep o s.index fun x => x.enter .reversing
      | _ => c

/-! ### The back-off (R140) -/

/-- A frame of the back-off whose current the watch record has taken (R140). On the braked first frame it ends only at the
reverse end or beyond it, 2 counts short of it from the next frame on: DEDUCED, log 54. A frame that ends it there is not
judged, also where it would be a second obstruction: DEDUCED, log 65. Where a stall or a fold-path report made the obstruction
between a drive frame and its answer, that answer is the braked first frame, and the reverse drive takes the place of the brake
of R139 before it is sent: DESIGN CHOICE, log 87. -/
def reverseFrame (c : Cabin) (d : Dock) (a : Axis) (m : Move) (I : Nat) (change : Int) : Cabin :=
  let w := m.watch
  let left := m.dir.reverse.along (w.reverseEnd.getD a.tracked - a.tracked)
  let w' := w.afterReverse c.now
  if left ≤ (if w.reverseFirst then 0 else 2) then c.failMove d .obstructed
  else if w.reverseFirst then
    (c.modMove d fun m => { m with watch := w' }).modDock d fun r =>
      { r with command := .drive (c.axisIndex d a.kind) m.dir.reverse w.reverseSpeed }
  else
    let st := a.baselineStation (c.dock d).geometry a.count
    let high : Bool := ((a.baselines.getD st 0 + w.margin : Nat) : Int) < w.filtered.getD I
    let cc := if high then w.currentCount + 1 else 0
    let sc := if tooSlow w.previous c.now (m.dir.reverse.along change) then w.speedCount + 1 else 0
    if 3 ≤ cc || 3 ≤ sc then c.failMove d .obstructed true
    else
      let watch := { w' with currentCount := cc, speedCount := sc }
      c.modMove d fun m =>
        { m with watch := watch, stall := stallTimer m.stall c.now (a.stallThreshold < I && change = 0) }

/-! ### Judging a frame (R124, R135, R137, R138) -/

/-- The setpoint of a frame, for a step in STARTING, RUNNING or STOPPING (R124, R128, R130). -/
def frameSetpoint (c : Cabin) (d : Dock) (a : Axis) (m : Move) : Nat :=
  let occ := (c.dock d).occupancy
  let vc := m.creepSpeed a.kind occ
  match m.stop with
  | some p => p.setpointAt vc (m.stopLeft a p)
  | none => m.setpointAt (m.fullSpeed a.kind occ) vc (m.progress a)

/-- Step 6 of R125 with the Obstruction Monitor's judging of a frame whose current the watch record has taken (R135, R137,
R138). -/
def judgeFrame (c : Cabin) (d : Dock) (a : Axis) (m : Move) (s : Step) (I : Nat) (first : Bool) (change : Int) : Cabin :=
  let w := m.watch
  let x := m.progress a
  let v := c.frameSetpoint d a m
  let open_ := w.judging || m.rampEff ≤ x
  let inCreep := m.extreme a.travel && m.rem ≤ x
  let judged := (s.state = .running || s.state = .stopping) && s.kind != .homing && !first && open_ && !inCreep
  let st := a.baselineStation (c.dock d).geometry a.count
  let high : Bool := ((a.baselines.getD st 0 + w.margin : Nat) : Int) < w.filtered.getD I
  let slow := tooSlow w.previous c.now (m.dir.along change)
  let count (n : Nat) (met : Bool) : Nat := if judged then (if met then n + 1 else 0) else if inCreep then 0 else n
  let cc := count w.currentCount high
  let sc := count w.speedCount slow
  let watch := { w with
    judging := open_
    currentCount := cc
    speedCount := sc
    previous := some (c.now, v)
    sums := if judged then addToStation w.sums st I else w.sums }
  let c := c.modMove d fun m => { m with watch := watch }
  if judged && 3 ≤ cc then c.obstruct d .current none
  else if judged && 3 ≤ sc then c.obstruct d .speed none
  else c.modDock d fun r => { r with command := .drive (c.axisIndex d a.kind) m.dir v }

/-- The Obstruction Monitor's part of a frame of a step's move, if the move still stands (R137, R140). -/
def judge (c : Cabin) (d : Dock) (r : StepRef) (f : StatusFrame) (first reversing : Bool) (change : Int) : Cabin :=
  match c.driven? d, c.step? r with
  | some (a, m), some (_, s) =>
    if m.step != r then c
    else if s.state = .reversing then if reversing then c.reverseFrame d a m f.current change else c
    else c.judgeFrame d a m s f.current first change
  | _, _ => c

/-! ### The frame at the Motion Generator (R125) -/

/-- The counts of every axis applied; the postures changed outside motion reported (R115 to R117, R125 step 2, R129). -/
def takeCounts (c : Cabin) (d : Dock) (counts : List Nat) : Cabin :=
  let taken := (c.dock d).axes.zipIdx.map fun p => p.1.takeCount (counts.getD p.2 0)
  let c := c.modDock d fun r => { r with axes := taken.map (·.1) }
  let moved := (taken.filter (·.2)).map (·.1)
  if moved.isEmpty then c
  else
    let c := (moved.filter (·.overran)).foldl (fun c a => c.overrunFault d a) c
    (c.notify (.posture d)).postureOutside d

/-- The driven axis's change grows the run length by the part in the move's direction (R125 step 2). -/
def growRun (c : Cabin) (d : Dock) (change : Int) : Cabin :=
  c.modMove d fun m => { m with runLength := m.runLength + (m.dir.along change).toNat }

/-- The part of the driven axis's change against the move's direction added to what the back-off of a step in REVERSING has
covered (R144). Changes in the move's direction are not taken off: DEDUCED, log 56. -/
def coverBack (c : Cabin) (d : Dock) (change : Int) : Cabin :=
  match c.driven? d with
  | none => c
  | some (_, m) =>
    match c.step? m.step with
    | none => c
    | some (o, s) =>
      if s.state = .reversing then
        c.modStep o s.index fun x =>
          { x with obstruction := x.obstruction.map fun r => r.cover (m.dir.reverse.along change).toNat }
      else c

/-- Fault flags of the axis that the answered drive frame drove (R125 step 1, R131). The axis is DISABLED; a move of it
ends with DRIVE_FAULT, and its overrun is then tested undriven. -/
def driverFault (c : Cabin) (d : Dock) (i : Nat) : Cabin :=
  match (c.dock d).axes[i]? with
  | none => c
  | some a =>
    let c := if a.enabled then (c.modAxis d a.kind fun a => { a with enabled := false }).notify (.posture d) else c
    if a.move.isNone then c
    else
      let c := c.failMove d .driveFault
      if a.overran then (c.overrunFault d a).postureOutside d else c

/-- What the watch record takes from an answered frame of a dock's move, before anything it is told of in that frame: the
filtered current, which the first frame of the move and the first reverse-driven frame set and every other frame filters,
and occupied seen (R135, R140). -/
def watchFrame (c : Cabin) (d : Dock) (I : Nat) : Cabin :=
  c.modMove d fun m => { m with watch := m.watch.take I (c.dock d).occupancy.stops }

/-- Whether the overrun of the driven axis is tested: not below 0 on a HOMING move (R116, R130). -/
def overrunTested (a : Axis) (m : Move) : Bool := !(m.kind = .homing && a.count = 0)

/-- Steps 3 to 5 of R125 for the driven axis of a dock; the watch record of a move that goes on takes the frame's current,
and step 6 and the judging are left to do. A run limit's REFERENCE notice carries the overrun as it stands, 0 included
(R118, R130): DESIGN CHOICE, log 63. -/
def movingFrame (c : Cabin) (d : Dock) (f : StatusFrame) (change : Int) : Cabin :=
  match c.driven? d with
  | none => c
  | some (a, m) =>
    match c.step? m.step with
    | none => c
    | some (o, s) =>
      let first : Bool := s.state = .starting && change != 0
      let c := if first then (c.changeStep o s.index fun x => x.enter .running).stopWindow d else c
      let state := if first then .running else s.state
      let stalling := a.stallThreshold < f.current && change = 0
      let timed (c : Cabin) : Cabin := c.modMove d fun m => { m with stall := stallTimer m.stall c.now stalling }
      let next (c : Cabin) : Cabin :=
        (c.watchFrame d f.current).spawn [.judge d m.step f first (s.state = .reversing) change]
      let limited : Bool := m.kind = .homing || (m.kind = .jog && a.ref = .unreferenced)
      if a.overran && overrunTested a m then (c.overrunFault d a).failMove d .referenceFault
      else if state = .running then
        if !m.extreme a.travel && m.arrived a then c.finishMove d
        else if limited && a.travel + a.travel / 4 < m.runLength then
          (c.enterReferenceFault d a.kind a.overrun).failMove d .referenceFault
        else next (timed c)
      else if state = .stopping then
        let z : Int := match m.stop with
          | some p => m.stopLeft a p
          | none => 0
        if z ≤ 0 || (!m.extreme a.travel && m.arrived a) then c.endStopping d else next (timed c)
      else if state = .starting && m.extreme a.travel && (m.kind = .homing || m.rem ≤ m.progress a) then next (timed c)
      else next c

/-- A status frame of a READY dock at the Motion Generator (R125). `sent` is the motor command it answers (R131). -/
def motionFrame (c : Cabin) (d : Dock) (sent : MotorCmd) (f : StatusFrame) : Cabin :=
  let change : Int := match c.driven? d with
    | some (a, _) => hallChange (f.counts.getD (c.axisIndex d a.kind) 0) a.nodeCount
    | none => 0
  let driven := (c.driven? d).map fun p => c.axisIndex d p.1.kind
  let c := ((c.takeCounts d f.counts).growRun d change).coverBack d change
  match sent with
  | .brake => c.movingFrame d f change
  | .drive i _ _ =>
    if f.faults then
      let c := c.driverFault d i
      if driven = some i then c else c.movingFrame d f change
    else c.movingFrame d f change

/-- A status frame of a READY dock (R15): switches, presence channels, then motion. -/
def statusFrame (c : Cabin) (d : Dock) (sent : MotorCmd) (f : StatusFrame) : Cabin :=
  let changed : Bool := (c.dock d).switches != some f.switches
  let c := c.modDock d fun r => { r with unanswered := 0, switches := some f.switches }
  let c := if changed then (c.notify (.posture d)).decideOccupancy d else c
  (c.takeRaws d f.raws).motionFrame d sent f

/-! ### Stalls (R127, R138, R140) -/

/-- The stall timer of a dock's move expires. -/
def stalled (c : Cabin) (d : Dock) : Cabin :=
  match c.driven? d with
  | none => c
  | some (a, m) =>
    match c.step? m.step with
    | none => c
    | some (_, s) =>
      let c := c.modMove d fun m => { m with stall := none }
      let atEnd := m.extreme a.travel && m.rem ≤ m.progress a
      match s.state with
      | .starting | .running =>
        if m.kind = .homing then c.homed d a.kind
        else if atEnd then c.endStop d a m
        else c.obstruct d .stall none
      | .stopping => if atEnd then c.endStopping d else c.obstruct d .stall none
      | .reversing => c.failMove d .obstructed true
      | _ => c

/-! ### What presence stops (R93, R143, R156, R159) -/

/-- A changed channel of a READY dock is told: fold-path stops, and the retry of waiting claims (R91, R143, R156). -/
def channelTold (c : Cabin) (d : Dock) (ch : Channel) : Cabin :=
  let entered : Bool := ((c.dock d).chan? ch).any fun x => x.state = .touch
  let c := if ch = .cushion then c else c.spawn [.retryClaims]
  match c.movingStep? d with
  | some (_, s) => if entered && s.fold && s.foldChannel = ch then c.obstruct d .foldPath (some ch) else c
  | none => c

/-- In the event of a grant to a fold step its fold-path channel is read (R143), once the running pass has stopped: DESIGN
CHOICE, log 84. -/
def foldAtGrant (c : Cabin) (d : Dock) : Cabin :=
  match c.movingStep? d with
  | some (_, s) =>
    if s.fold && ((c.dock d).chan? s.foldChannel).any (fun x => x.state = .touch) then
      c.obstruct d .foldPath (some s.foldChannel)
    else c
  | none => c

/-- A changed occupancy is told: restricted steps in CLAIMING or POWERING fail, a restricted step in motion is stopped
(R93, R143, R159). -/
def occupancyTold (c : Cabin) (d : Dock) : Cabin :=
  if (c.dock d).occupancy.stops then
    let waiting := (c.stepsOf d).filter fun p =>
      (p.2.state = .claiming || p.2.state = .powering) && p.2.restricted (c.dock d)
    let c := waiting.foldl (fun c p => c.failWaiting p.1 p.2 .occupied) c
    match c.movingStep? d with
    | some (_, s) =>
      if s.restricted (c.dock d) then
        if s.state = .reversing then c.failMove d .obstructed true else c.failMove d .occupied
      else c
    | none => c
  else c

end Cabin

end Sys2Proof.Machine
end

