-- ==== Sys2Proof/Machine/Arbiter.lean ====
section
/-! DEFINITION. The Drive Budget Arbiter: arbitration passes, grants, withdrawals and the effective budget (R103, R104,
R107 to R112). -/

namespace Sys2Proof.Machine

open Sys2Proof

/-- The effective budget of a limit at a voltage in force (R103). -/
def effectiveBudget (limit voltage : Nat) : Nat :=
  if 120 ≤ voltage then limit else if voltage ≤ 90 then 0 else limit * (voltage - 90) / 30

/-- The next requester at a level after a pointer (R107). -/
def Arbiter.nextRequester (a : Arbiter) (level : Nat) (pointer : Dock) : Option Dock :=
  pointer.after.find? fun d => (a.requests.get d).any fun q => q.level = level

/-- The choice of a head when it is absent (R108 step 1). -/
def Arbiter.chooseHead (a : Arbiter) : Arbiter :=
  if a.head.isSome then a
  else
    match a.nextRequester 0 a.pointer0, a.nextRequester 1 a.pointer1 with
    | some d, none => { a with head := some d, due0 := false }
    | some d, some e => if a.due0 then { a with head := some d, due0 := false } else { a with head := some e }
    | none, some e => { a with head := some e }
    | none, none => a

/-- The first level-1 entry after the level-1 pointer whose amount fits (R108 step 3). -/
def Arbiter.passing (a : Arbiter) : Option (Dock × Request) :=
  a.pointer1.after.findSome? fun d =>
    match a.requests.get d with
    | some q => if q.level = 1 ∧ a.held + q.amount ≤ a.budget then some (d, q) else none
    | none => none

/-- The pointer of a grant's level set to its dock; a level-1 scan that wrapped sets level-0 due (R109 step 3). -/
def Arbiter.movePointer (a : Arbiter) (d : Dock) (level : Nat) : Arbiter :=
  if level = 0 then { a with pointer0 := d }
  else { a with pointer1 := d, due0 := a.due0 || decide (d.num ≤ a.pointer1.num) }

namespace Cabin

/-- The stream timer of a dock starts as its step enters STARTING while no step of the dock is in motion, in
STREAM_WHILE_MOVING (R173). -/
def startStream (c : Cabin) (d : Dock) : Cabin :=
  if c.set.limits.stream && !c.inMotion d then { c with streams := c.streams.set d (some (c.now + 100)) } else c

/-- Why a step that a grant reaches is not driven: a restricted step of an occupied dock (R93), an axis that is DISABLED
(R131; log 26), and a step but HOMING of an axis in REFERENCE_FAULT (R118; log 48). -/
def grantRefused? (c : Cabin) (s : Step) : Option Reason :=
  if s.restricted (c.dock s.dock) && (c.dock s.dock).occupancy.stops then some .occupied
  else if (c.axis? s.dock s.axis).any fun x => !x.enabled then some .driveFault
  else if s.kind != .homing && (c.axis? s.dock s.axis).any fun x => x.ref = .referenceFault then some .referenceFault
  else none

/-- A grant (R109). Where the step is not to be driven the grant is released and the step fails in this event, with what
its failure changes; the release makes a pass of its own once the running pass has stopped (R108). -/
def grantTo (c : Cabin) (d : Dock) (q : Request) : Cabin :=
  let a := { c.arb with requests := c.arb.requests.set d none }.movePointer d q.level
  let c := { c with arb := a }
  match c.step? q.step with
  | none => c
  | some (o, s) =>
    match c.grantRefused? s with
    | some why => (c.failWaiting o s why).spawn [.pass]
    | none =>
      let a := { c.arb with
        grants := c.arb.grants ++ [⟨d, q.step, q.level, q.amount⟩]
        window := c.arb.window.set d (some (c.now + 400)) }
      let c := { c with arb := a }.startStream d
      (c.changeStep o s.index fun x => x.enter .starting).beginMove o s

/-- The steps of a pass (R108); `n` bounds the grants it can still give. -/
def passLoop : Nat → Cabin → Cabin
  | 0, c => c
  | n + 1, c =>
    let c := { c with arb := c.arb.chooseHead }
    match c.arb.head with
    | none => c
    | some d =>
      match c.arb.requests.get d with
      | none => { c with arb := { c.arb with head := none } }
      | some q =>
        if c.arb.held + q.amount ≤ c.arb.budget then
          passLoop n ({ c with arb := { c.arb with head := none } }.grantTo d q)
        else if q.level = 0 then
          match c.arb.passing with
          | some (e, p) => passLoop n (c.grantTo e p)
          | none => c
        else c

/-- An arbitration pass (R108): each grant takes one of the at most five entries of the request set. -/
def pass (c : Cabin) : Cabin := passLoop 6 c

/-- The withdrawal of one grant, by the state of its step (R111). -/
def withdraw (c : Cabin) (g : Grant) : Cabin :=
  let c := c.dropGrant g.step
  match c.step? g.step with
  | none => c
  | some (_, s) =>
    match s.state with
    | .starting | .running =>
      let c := c.endMotion g.dock true fun c o s => c.changeStep o s.index fun x => x.enter .powering
      { c with arb := { c.arb with
          requests := c.arb.requests.set g.dock (some ⟨g.step, g.level, g.amount, c.now + 15000⟩) } }
    | .stopping => c.endStopping g.dock
    | .reversing => c.failMove g.dock .obstructed true
    | _ => c

/-- Withdrawals in the given order until the sum held fits (R111). -/
def withdrawUntilFits : List Grant → Cabin → Cabin
  | [], c => c
  | g :: gs, c => if c.arb.held ≤ c.arb.budget then c else withdrawUntilFits gs (c.withdraw g)

/-- The order of withdrawal: level 0 newest first, then level 1 newest first (R111). -/
def withdrawOrder (l : List Grant) : List Grant :=
  (l.filter fun g => g.level = 0).reverse ++ (l.filter fun g => g.level != 0).reverse

/-- The effective budget recomputed to a value, and what the arbiter does on the change (R104). -/
def changeBudget (c : Cabin) (e : Nat) : Cabin :=
  let c' := { c with arb := { c.arb with budget := e } }
  if e = c.arb.budget then c
  else if c.arb.budget < e then c'.spawn [.pass]
  else if c'.arb.held ≤ e then c'
  else (withdrawUntilFits (withdrawOrder c'.arb.grants) c').spawn [.pass]

end Cabin

end Sys2Proof.Machine
end

