-- ==== Sys2Proof/Machine/Roster.lean ====
section
/-! DEFINITION. The Seat Roster: dock states (R1 to R11, R20), leaving READY (R22, R46), the enrolment exchange (R16 to
R19), and docks across SLEEP (R24). -/

namespace Sys2Proof.Machine

open Sys2Proof

/-- Unit identity, installed geometry, axis list and channel records removed (R1, R147). The switches go with them: DESIGN
CHOICE, log 45. -/
def DockRec.removeUnit (r : DockRec) : DockRec :=
  { r with identity := none, geometry := none, axes := [], chans := [], switches := none, command := .brake }

/-- A new exchange record: toggle 0, expecting BASE (R5). -/
def newExchange : Exchange := ⟨false, .base, none, [], none⟩

/-! ### The verdict (R18) and what acceptance installs (R19) -/

/-- Every two neighbouring station boundaries differ by at least ceil(1000 / T) permille (R18 test 4). -/
def boundariesApart (t : List Station) (travel : Nat) : Bool :=
  let bs := t.map (·.boundary)
  (bs.zip bs.tail).all fun p => p.1 + ceilDiv 1000 travel ≤ p.2

/-- An AXIS page within its ranges (R18 test 4). -/
def AxisPage.inRange (p : AxisPage) (e : GeomEntry) : Bool :=
  16 ≤ p.travel && p.travel ≤ 60000 && (p.kind != .slide || (10 ≤ p.pitch && p.pitch ≤ 200)) &&
    5 ≤ p.rated && p.rated ≤ 150 && 20 ≤ p.maxSpeed && p.maxSpeed ≤ 2000 && p.nominal < p.stallThreshold &&
    (p.kind = .slide || boundariesApart (e.table p.kind) p.travel)

/-- The verdict on an exchange: the keyed entry, or the reason of a rejection (R18). -/
def verdict (table : List GeomEntry) (pl : Placement) (i : Identity) (pages : List AxisPage) : Except DockFault GeomEntry :=
  if i.kind != pl.kind then .error .kindNotAllowed
  else
    match table.find? fun e => e.kind = i.kind && e.revision = i.revision with
    | none => .error .unknownGeometry
    | some e =>
      if i.axisCount < 1 || 4 < i.axisCount || pages.map (·.kind) != i.kind.axes.take i.axisCount then .error .axisMismatch
      else if pages.length = i.axisCount && pages.all fun p => p.inRange e then .ok e
      else .error .axisMismatch

/-- An axis record at enrolment (R19, R114, R119, R136). -/
def newAxis (e : GeomEntry) (trust : Bool) (p : AxisPage) : Axis :=
  { kind := p.kind
    travel := p.travel
    pitch := p.pitch
    rated := p.rated
    maxSpeed := p.maxSpeed
    nominal := p.nominal
    stallThreshold := p.stallThreshold
    count := min p.stored p.travel
    overrun := 0
    nodeCount := p.stored
    drift := 0
    ref := if trust then .referenced else .unreferenced
    faultTime := none
    suppression := none
    enabled := true
    cond := .idle
    move := none
    auto := autoProfile p.travel p.maxSpeed
    baselines := List.replicate (if p.kind = .slide then 4 else (e.table p.kind).length) p.nominal
    reseed := false }

/-- The channel set, LID dropped for a unit that has none (R18). -/
def Identity.installed (i : Identity) : Identity :=
  { i with channels := i.channels.filter fun ch => ch != .lid || i.kind = .third }

namespace Cabin

/-! ### Leaving READY (R22) -/

/-- The claims of a dock's steps no longer hold: its reservation is removed and its cells are kept (R46). -/
def dropClaims (c : Cabin) (d : Dock) : Cabin :=
  c.activeOrders.foldl
    (fun c o => c.modOrder o.slot fun o =>
      { o with steps := o.steps.map fun s => if s.dock = d then { s with holds := false } else s })
    { c with map := c.map.unreserve d }

/-- The non-terminal step of lowest index of a leaving dock fails in its order (R22). -/
def failLeaving (c : Cabin) (d : Dock) (why : Reason) (o : Order) : Cabin :=
  match o.steps.find? fun s => s.dock = d && !s.state.terminal with
  | some s => (c.markFailed o s why false).takeBack (o.ref s) d
  | none => c

/-- The grant of a leaving dock released; the arbiter arbitrates again (R22). -/
def dropDockGrant (c : Cabin) (d : Dock) : Cabin :=
  if c.arb.grants.any fun g => g.dock = d then
    { c with arb := { c.arb with grants := c.arb.grants.filter fun g => g.dock != d } }.spawn [.pass]
  else c

/-- A dock leaves READY for a state, its steps failing with a reason (R22, R46, R114, R156). The ORDER subjects of the orders
that fail join the pending-notice set first, then POSTURE, then what the validation makes pending: DEDUCED, log 77. -/
def leaveReady (c : Cabin) (d : Dock) (st : DockState) (why : Reason) : Cabin :=
  let c := c.modDock d fun r =>
    { r with state := st, attention := .none, chans := r.chans.map fun ch => { ch with retune := false } }
  let c := ((c.dropMoves d).stopWindow d).dropClaims d
  let c := c.activeOrders.foldl (fun c o => c.failLeaving d why o) c
  let c := (c.dropDockGrant d).decideOccupancy d
  (c.notify (.posture d)).revalidate (some d)

/-! ### Dock states -/

/-- Entry to SEATING: settle timer, lamp ON, unit removed, envelope of the Dock Table installed and trimmed to (R3). -/
def enterSeating (c : Cabin) (d : Dock) (o : SeatOrigin) : Cabin :=
  let E := c.envelopes.get d
  let c := c.modDock d fun r =>
    { r.removeUnit with state := .seating, origin := some o, lamp := .on, settle := some (c.now + 200), hold := none }
  (c.installTrim (.dock d) E E).notify (.dock d)

/-- Entry to VACATING, after a dock that was READY has left it (R4, R10). DOCK joins the pending-notice set before what R22
makes pending: DEDUCED, log 77. -/
def enterVacating (c : Cabin) (d : Dock) : Cabin :=
  let c := c.notify (.dock d)
  let c := if c.ready d then c.leaveReady d .vacating .unitRemoved else c
  c.modDock d fun r =>
    { r with
      state := .vacating
      origin := none
      fault := none
      silenceAxis := none
      silenceOwed := false
      verdictDue := none
      power := false
      settle := none
      powerUp := none
      pageLimit := none
      silence := none
      hold := some (c.now + 5000) }

/-- Entry to EMPTY: the dock is released and its record emptied (R4, R11). -/
def enterEmpty (c : Cabin) (d : Dock) : Cabin :=
  let c := c.modDock d fun r =>
    { r.removeUnit with
      state := .empty
      origin := none
      exchange := none
      placement := none
      lamp := .off
      settle := none
      hold := none }
  (c.releaseDock d).notify (.dock d)

/-- Entry to ENROLLING: placement copied, new exchange record, envelope installed and trimmed to, lamp ON (R5). A VERDICT
page that an exchange before still owes to the next round (R20) gives way to the new exchange's first page: DESIGN CHOICE,
log 60. -/
def enterEnrolling (c : Cabin) (d : Dock) : Cabin :=
  let E := c.envelopes.get d
  let c := c.modDock d fun r =>
    { r with
      state := .enrolling
      origin := none
      placement := some ⟨c.set.dockTable.get d, E⟩
      fault := none
      exchange := some newExchange
      verdictDue := none
      silenceAxis := none
      silenceOwed := false
      lamp := .on
      settle := none
      silence := none }
  (c.installTrim (.dock d) E E).notify (.dock d)

/-- Dock power ON with the power-up delay (R5, R24). -/
def powerUp (c : Cabin) (d : Dock) : Cabin := c.modDock d fun r => { r with power := true, powerUp := some (c.now + 50) }

/-- Entry to FAULTED: reason, lamp BLINK_SLOW, unit removed (R9). -/
def enterFaulted (c : Cabin) (d : Dock) (why : DockFault) : Cabin :=
  (c.modDock d fun r =>
    { r.removeUnit with
      state := .faulted
      fault := some why
      lamp := .blinkSlow
      silenceAxis := none
      silenceOwed := false
      silence := none
      pageLimit := none }).notify (.dock d)

/-- Silence expires: FAULTED with NO_RESPONSE, the envelope of the placement copy installed and trimmed to (R7, R9). -/
def silenceExpired (c : Cabin) (d : Dock) : Cabin :=
  let c := c.enterFaulted d .noResponse
  match (c.dock d).placement with
  | some pl => c.installTrim (.dock d) pl.envelope pl.envelope
  | none => c

/-- Entry to SILENT: silence axis, its full-travel sweep installed, silence timer, then the leaving of READY (R6, R22,
R46). DOCK joins the pending-notice set before what R22 makes pending: DEDUCED, log 77. -/
def enterSilent (c : Cabin) (d : Dock) : Cabin :=
  let k := (c.driven? d).map fun p => p.1.kind
  let m := match k with
    | some k => c.map.install (.dock d) ((c.dock d).fullSweep k)
    | none => c.map
  let c := { c with map := m }.modDock d fun r => { r with silenceAxis := k, silence := some (c.now + 2000) }
  (c.notify (.dock d)).leaveReady d .silent .linkLost

/-- A latch open event at a dock (R2, R3, R4, R5, R10, R11). -/
def latchOpened (c : Cabin) (d : Dock) : Cabin :=
  match (c.dock d).state, (c.dock d).origin with
  | .empty, _ | .vacating, _ => c
  | .seating, some .relatch => c.enterVacating d
  | .seating, _ => c.enterEmpty d
  | _, _ => c.enterVacating d

/-- A latch closed event at a dock (R2, R3, R11). -/
def latchClosed (c : Cabin) (d : Dock) : Cabin :=
  match (c.dock d).state with
  | .empty => c.enterSeating d .fresh
  | .vacating => c.enterSeating d .relatch
  | _ => c

/-- The settle timer expires: ENROLLING, dock power ON (R4, R5). -/
def settled (c : Cabin) (d : Dock) : Cabin := (c.enterEnrolling d).powerUp d

/-- An unanswered poll of a READY dock (R6); unanswered polls in other states change nothing (R7, R9). -/
def pollMissed (c : Cabin) (d : Dock) : Cabin :=
  if c.ready d then
    let n := min 5 ((c.dock d).unanswered + 1)
    let c := c.modDock d fun r => { r with unanswered := n }
    if n = 5 then c.enterSilent d else c
  else c

/-! ### The exchange (R16 to R20) -/

/-- An exchange that fails: FAULTED at once, the REJECTED verdict due in the next round (R20). `sent` marks that the last
controller page was not answered as expected, so that its toggle has still to be passed. -/
def failExchange (c : Cabin) (d : Dock) (why : DockFault) (sent : Bool) : Cabin :=
  let c := c.enterFaulted d why
  c.modDock d fun r =>
    { r with verdictDue := some why, exchange := r.exchange.map fun x => { x with toggle := x.toggle != sent, wanted := .ended } }

/-- An accepted exchange completed: identity, geometry, axes, channels, map, READY (R8, R19). -/
def accepted (c : Cabin) (d : Dock) (i : Identity) (pages : List AxisPage) (e : GeomEntry) : Cabin :=
  let old := (c.dock d).axes
  let i := i.installed
  let axes := pages.map (newAxis e i.trust)
  let c := c.modDock d fun r =>
    { r with
      state := .ready
      exchange := r.exchange.map fun x => { x with toggle := !x.toggle, wanted := .ended }
      identity := some i
      geometry := some e
      axes := axes
      chans := i.channels.map fun ch => newChan ch.kind
      switches := none
      unanswered := 0
      attention := .none
      lamp := .off
      pageLimit := none
      command := .brake }
  let F := (c.dock d).footprint
  let c := c.installTrim (.dock d) F F
  let changed := axes.filter fun a => (findAxis old a.kind).any fun b => b.ref != a.ref
  let c := changed.foldl (fun c a => c.notify (.reference d (c.axisIndex d a.kind))) c
  (((c.decideOccupancy d).notify (.dock d)).notify (.posture d)).revalidate (some d)

/-- A node page is taken: fields stored, page limit stopped, toggle flipped (R16). -/
def storePage (c : Cabin) (d : Dock) (f : Exchange → Exchange) : Cabin :=
  c.modDock d fun r =>
    { r with pageLimit := none, exchange := r.exchange.map fun x => { f x with toggle := !x.toggle } }

/-- A BASE page that has passed its checks (R17, R18). -/
def takeBase (c : Cabin) (d : Dock) (i : Identity) (more : Bool) : Cabin :=
  if i.axisCount < 1 || 4 < i.axisCount then
    (c.storePage d fun x => { x with base := some i }).failExchange d .axisMismatch false
  else if more then c.storePage d fun x => { x with base := some i, wanted := .axis }
  else c.failExchange d .pageSequence true

/-- An AXIS page of the kind and toggle expected (R17); the last one brings the verdict (R18). -/
def takeAxis (c : Cabin) (d : Dock) (x : Exchange) (p : AxisPage) (more : Bool) : Cabin :=
  match x.base with
  | none => c
  | some i =>
    let pages := x.pages ++ [p]
    if more != decide (pages.length < i.axisCount) then c.failExchange d .pageSequence true
    else if more then c.storePage d fun x => { x with pages := pages }
    else
      let c := c.storePage d fun x => { x with pages := pages }
      match (c.dock d).placement with
      | none => c
      | some pl =>
        match verdict c.set.geometry pl.place i pages with
        | .error why => c.failExchange d why false
        | .ok e => c.modDock d fun r =>
            { r with exchange := r.exchange.map fun x => { x with wanted := .acknowledge, entry := some e } }

/-- A node page within its limit, checked in the order of R17. -/
def takePage (c : Cabin) (d : Dock) (page : Option NodePage) : Cabin :=
  match page, (c.dock d).exchange with
  | _, none => c
  | none, some _ => c.failExchange d .pageSequence true
  | some p, some x =>
    if p.toggle != x.toggle || !p.ack then c.failExchange d .pageSequence true
    else
      match x.wanted, p.body with
      | .base, .base i => c.takeBase d i p.more
      | .axis, .axis a => c.takeAxis d x a p.more
      | .acknowledge, .acknowledge =>
        match p.more, x.base, x.entry with
        | false, some i, some e => c.accepted d i x.pages e
        | _, _, _ => c.failExchange d .pageSequence true
      | _, _ => c.failExchange d .pageSequence true

/-- The controller page that an ENROLLING dock's exchange record calls for (R16, R19). -/
def pageDue (x : Exchange) : Option ControllerPage :=
  match x.wanted with
  | .base => some .open_
  | .axis => some .next
  | .acknowledge => some .accepted
  | .ended => none

/-! ### SLEEP (R24, R160) -/

/-- A dock on entry to SLEEP (R24). A VERDICT page that a failed exchange still owes to the next round (R20) stays owed over
SLEEP: DESIGN CHOICE, log 76. -/
def sleepRecord (r : DockRec) : DockRec := { r with power := false, pageLimit := none, silence := none }

/-- A dock on the return to AWAKE (R24, R160), whatever its state the channels with it: DESIGN CHOICE, log 73. A dock with a
power-up delay begins anew once that has expired (`poweredRecord`); one that has none to wait for has its unanswered count set
at once: DEDUCED, log 75. -/
def wakeRecord (now : Nat) (r : DockRec) : DockRec :=
  let r := { r with chans := r.chans.map Chan.wake }
  match r.state with
  | .silent => { r with power := true, powerUp := some (now + 50), silenceOwed := true }
  | .enrolling | .ready | .faulted => { r with power := true, powerUp := some (now + 50) }
  | .empty | .seating | .vacating => { r with unanswered := 0 }

/-- A dock whose power-up delay has expired: its unanswered count is 0, and in ENROLLING it begins an exchange from OPEN with
toggle 0 (R5, R24). A delay that expires without dock power, in SLEEP, only stops: DEDUCED, log 75. -/
def poweredRecord (r : DockRec) : DockRec :=
  let r := { r with powerUp := none }
  if !r.power then r
  else if r.state = .enrolling then { r with unanswered := 0, exchange := some newExchange }
  else { r with unanswered := 0 }

def dockSleep (c : Cabin) : Cabin := { c with docks := c.docks.map sleepRecord }

def dockWake (c : Cabin) : Cabin := { c with docks := c.docks.map (wakeRecord c.now) }

end Cabin

end Sys2Proof.Machine
end

