-- ==== Sys2Proof/Machine/Admission.lean ====
section
/-! DEFINITION. Expansion into steps (R79 to R85), admission and supersede (R75, R86, R87), cancel (R97), pause (R98, R99)
and the end of a jog (R168). -/

namespace Sys2Proof.Machine

open Sys2Proof

/-! ### Expansion (R79 to R82) -/

/-- A step to be: dock, axis, kind, target count and class. -/
structure Plan where
  dock : Dock
  axis : AxisKind
  kind : StepKind
  target : Nat
  cls : StepClass
deriving DecidableEq, Repr

/-- The target count of a clamped target (R80). -/
def Axis.targetCount (a : Axis) (e : GeomEntry) (v : Nat) : Nat :=
  if a.kind = .slide then min a.travel (ceilDiv (v * a.pitch) 10)
  else if v = 0 then 0
  else if v = e.lastStation a.kind then a.travel
  else ceilDiv ((((e.table a.kind)[v]?).map (·.boundary)).getD 0 * a.travel) 1000

/-- Whether a clamped target makes a step: the axis is not believed, or it differs from its position (R79). -/
def Axis.differs (a : Axis) (e : GeomEntry) (v : Nat) : Bool :=
  a.ref.conservative ||
    (if a.kind = .slide then 5 < absDiff (millimetres a.count a.pitch) v else a.stationAt e a.count != v)

/-- The class of a MOVE step, an axis to be homed taken as standing at count 0 (R82). -/
def Axis.moveClass (a : Axis) (e : GeomEntry) (target : Nat) : StepClass :=
  let p := if a.ref.conservative then 0 else a.count
  if a.kind = .slide then if target < p then .stowing else .deploying
  else if a.stationAt e p < a.stationAt e target then .stowing
  else .deploying

/-- The steps of one target: a MOVE step, preceded or replaced by a HOMING step on an axis that is not believed (R79, R81). -/
def targetPlans (d : Dock) (a : Axis) (e : GeomEntry) (v : Nat) : List Plan :=
  let v := a.clampTarget e v
  let t := a.targetCount e v
  if !a.enabled || !a.differs e v then []
  else if a.ref.conservative then
    if t = 0 then [⟨d, a.kind, .homing, 0, .deploying⟩]
    else [⟨d, a.kind, .homing, 0, Config.pairedHomingClass d a.kind⟩, ⟨d, a.kind, .move, t, a.moveClass e t⟩]
  else [⟨d, a.kind, .move, t, a.moveClass e t⟩]

/-- The axis order of deploying steps; stowing steps take the reverse (R82). -/
def deployOrder : List AxisKind := [.slide, .tumble, .well, .recline, .headrest]

/-- The class that orders a target's steps: that of its last step, the MOVE step or the HOMING step made alone (R82). -/
def planClass (l : List Plan) : Option StepClass := l.getLast?.map (·.cls)

/-- The steps of a dock for the targets of an entry, in the order of R82. -/
def dockPlans (d : Dock) (r : DockRec) (targets : List (AxisKind × Nat)) : List Plan :=
  match r.geometry with
  | none => []
  | some e =>
    let of (k : AxisKind) : List Plan :=
      match targets.find? fun t => t.1 = k, findAxis r.axes k with
      | some t, some a => targetPlans d a e t.2
      | _, _ => []
    let pick (cls : StepClass) (k : AxisKind) : List Plan := if planClass (of k) = some cls then of k else []
    deployOrder.reverse.flatMap (pick .stowing) ++ deployOrder.flatMap (pick .deploying)

/-- The steps of a snapshot's entries; unmatched entries make none (R79). Entries stand in dock order (R51). -/
def expand (docks : PerDock DockRec) (entries : List Entry) : List Plan :=
  (entries.filter fun e => e.matched docks).flatMap fun e => dockPlans e.dock (docks.get e.dock) e.targets

/-- The HOMING steps of a HOMING order on some axes, in the deploying order (R84). -/
def homingPlans (d : Dock) (axes : List Axis) : List Plan :=
  deployOrder.flatMap fun k => (axes.filter fun a => a.kind = k && a.enabled).map fun a => ⟨d, a.kind, .homing, 0, .deploying⟩

/-- A step record of a plan, in PENDING (R77, R87). -/
def Plan.step (p : Plan) (index : Nat) : Step :=
  { index := index
    dock := p.dock
    axis := p.axis
    kind := p.kind
    target := p.target
    cls := p.cls
    state := .pending
    blocker := none
    waitStart := none
    holds := false
    stopCause := none
    failure := none
    fold := false
    claimFrom := 0
    obstruction := none }

/-- An order to be admitted: origin, kind, snapshot, urgency and steps (R76). -/
structure Admission where
  origin : OrderOrigin
  kind : OrderKind
  layout : Option (Nat × Nat)
  urgency : Urgency
  plans : List Plan
deriving DecidableEq, Repr

/-- The number after a number (R75). -/
def afterNumber (n : Nat) : Nat := if 65535 ≤ n then 1 else n + 1

/-- The first number not held by an active order, from `n` on (R75); at most eight are passed over. -/
def freshNumber (used : List Nat) : Nat → Nat → Nat
  | 0, n => n
  | k + 1, n => if used.contains n then freshNumber used k (afterNumber n) else n

/-- The docks of an order, from D1 to D5: DESIGN CHOICE, log 83. -/
def Order.docks (o : Order) : List Dock := Dock.all.filter fun d => o.steps.any fun s => s.dock = d

/-- The steps of a plan list, indexes from 1 (R82). -/
def planSteps (l : List Plan) : List Step := l.zipIdx.map fun p => p.1.step (p.2 + 1)

/-- The order record an admission writes (R76, R87). -/
def Admission.order (a : Admission) (slot : Slot) (n : Nat) : Order :=
  { slot := slot
    number := n
    origin := a.origin
    kind := a.kind
    layout := a.layout
    urgency := a.urgency
    steps := planSteps a.plans
    state := .active
    cancelTaken := false
    superseded := []
    firstFailure := none }

/-- The number the next admission gives (R75). -/
def Cabin.nextNumber (c : Cabin) : Nat := freshNumber (c.activeOrders.map (·.number)) 8 c.pool.next

namespace Cabin

/-! ### Supersede and admission (R86, R87) -/

/-- One older order superseded on a dock (R86). -/
def supersedeOn (c : Cabin) (d : Dock) (slot : Slot) : Cabin :=
  match c.pool.recs.get slot with
  | none => c
  | some o =>
    let live := o.steps.filter fun s => s.dock = d && !s.state.terminal
    if live.isEmpty then c
    else
      let c := c.modOrder slot fun o =>
        { o with superseded := if o.superseded.contains d then o.superseded else o.superseded ++ [d] }
      let c := live.foldl
        (fun c s =>
          if s.state.waiting then c.skipStep o s
          else if s.state = .starting || s.state = .running then c.stopStep o s .supersede
          else c) c
      c.closeOrder slot

/-- Older orders superseded on every dock of a new order (R86), docks from D1 to D5 and on each the older orders in the order
of the active list: DESIGN CHOICE, log 83. -/
def supersede (c : Cabin) (docks : List Dock) (older : List Slot) : Cabin :=
  docks.foldl (fun c d => older.foldl (fun c s => c.supersedeOn d s) c) c

/-- An admission in the free slot `slot` (R87 steps 1 to 4, 6 and 7). Step 7 tests the docks from D1 to D5, so the dock tested
first claims contested cells first: DESIGN CHOICE, log 83. -/
def admitIn (c : Cabin) (slot : Slot) (rest : List Slot) (a : Admission) : Cabin :=
  let n := c.nextNumber
  let o := a.order slot n
  let older := c.pool.active
  let pool := { c.pool with
    recs := c.pool.recs.set slot (some o), free := rest, active := older ++ [slot], next := afterNumber n }
  let c := { c with pool := pool }.supersede o.docks older
  let c := o.docks.foldl (fun c d => c.setAttention d .none) c
  (c.notify (.order slot)).spawn (o.docks.map Task.testDock)

/-- An admission, where a slot is free. -/
def admitOrder (c : Cabin) (a : Admission) : Cabin :=
  match c.pool.free with
  | [] => c
  | slot :: rest => c.admitIn slot rest a

/-! ### Cancel (R97) -/

/-- Every step of an order in STARTING or RUNNING goes to STOPPING with a cause (R97 step 2, R98 step 1). -/
def stopMoving (c : Cabin) (o : Order) (cause : StopCause) : Cabin :=
  (o.steps.filter fun s => s.state = .starting || s.state = .running).foldl (fun c s => c.stopStep o s cause) c

/-- Stops and skips of a cancel, in one order (R97 steps 1 to 4). -/
def cancelOrder (c : Cabin) (slot : Slot) : Cabin :=
  match c.pool.recs.get slot with
  | none => c
  | some o =>
    let c := (c.modOrder slot fun o => { o with cancelTaken := true }).stopMoving o .cancel
    (c.skipWaiting slot).closeOrder slot

/-! ### Pause (R98, R99) -/

/-- An ACTIVE order becomes PAUSED, its block-wait timers stopped, and ORDER is pending (R98 steps 2 and 3). -/
def pauseOrder (c : Cabin) (slot : Slot) : Cabin :=
  (c.modOrder slot fun o =>
    { o with state := .paused, steps := o.steps.map fun s => { s with waitStart := none } }).notify (.order slot)

/-- The requests of an order's steps in POWERING are taken back, their claims kept (R98 step 4). -/
def takeBackRequests (c : Cabin) (o : Order) : Cabin :=
  (o.steps.filter fun s => s.state = .powering).foldl (fun c s => c.takeBack (o.ref s) s.dock) c

/-- PARKED is lost (R98): each step of the rule is taken for every ACTIVE order before the next one. -/
def parkedLost (c : Cabin) : Cabin :=
  let l := c.activeOrders.filter fun o => o.state = .active
  if l.isEmpty then c
  else
    let c := l.foldl (fun c o => c.stopMoving o .pause) c
    let c := l.foldl (fun c o => c.pauseOrder o.slot) c
    let c := l.foldl takeBackRequests c
    { c with pool := { c.pool with grace := some (c.now + 2000) } }

/-- PARKED returns (R99): the requests of the steps in POWERING, then the attempts of the steps in CLAIMING, each in the order
of R91, then the tests of the docks from D1 to D5: DESIGN CHOICE, log 83. -/
def parkedBack (c : Cabin) : Cabin :=
  let paused := c.activeOrders.filter fun o => o.state = .paused
  let c := paused.foldl (fun c o => (c.modOrder o.slot fun o => { o with state := .active }).notify (.order o.slot)) c
  let inState (st : StepState) : List StepRef := paused.flatMap fun o => (o.steps.filter fun s => s.state = st).map o.ref
  { c with pool := { c.pool with grace := none } }.spawn
    ((inState .powering).map Task.request ++ (inState .claiming).map Task.attempt ++ Dock.all.map Task.testDock)

/-- One PAUSED order at the expiry of the grace timer (R99). -/
def graceOrder (c : Cabin) (o : Order) : Cabin :=
  let live := o.steps.filter fun s => !s.state.terminal
  if o.firstFailure.isSome then (c.skipWaiting o.slot).closeOrder o.slot
  else
    match live.find? fun s => s.state.waiting, live.head? with
    | some s, _ => c.failWaiting o s .vehicleMoving
    | none, some s => c.writeFirstFailure o.slot ⟨s.dock, s.axis, .vehicleMoving, false⟩
    | none, none => c

/-- The pause grace timer expires (R99). -/
def graceExpired (c : Cabin) : Cabin :=
  (c.activeOrders.filter fun o => o.state = .paused && !o.cancelTaken).foldl graceOrder
    { c with pool := { c.pool with grace := none } }

/-! ### The end of a jog (R168) -/

/-- The jog is ended: the record is removed and its step taken by its state (R168). -/
def endJog (c : Cabin) : Cabin :=
  match c.jog with
  | none => c
  | some j =>
    let c := { c with jog := none }
    match c.orderOf? j.order with
    | none => c
    | some o =>
      let c := o.steps.foldl
        (fun c s =>
          if s.state.waiting then c.skipStep o s
          else if s.state = .starting || s.state = .running then c.stopStep o s .release
          else if s.state = .stopping && s.stopCause = some .pause then
            c.modStep o s.index fun x => { x with stopCause := some .release }
          else c) c
      c.closeOrder o.slot

/-! ### Block-wait expiry (R92) -/

/-- The reason a noted blocker fails a step with (R92). -/
def blockReason : Blocker → Option Reason
  | .dock _ => some .blockedDock
  | .external _ => some .blockedExternal
  | .object _ => some .blockedObject
  | .referenceWait => none

/-- The block-wait of a waiting step expires: it fails with its noted blocker (R92). -/
def blockExpired (c : Cabin) (o : Order) (s : Step) : Cabin :=
  match s.blocker.bind blockReason with
  | some why => if s.state = .claiming && s.waitStart.isSome then c.failWaiting o s why else c
  | none => c

end Cabin

end Sys2Proof.Machine
end

