-- ==== Sys2Proof/Machine/Cascade.lean ====
section
/-! DEFINITION. What blocks tell one another inside one command, run to its end (log 3). -/

namespace Sys2Proof.Machine

open Sys2Proof

namespace Cabin

/-- A step that is not in motion fails (R95). -/
def failStep (c : Cabin) (r : StepRef) (why : Reason) : Cabin :=
  match c.step? r with
  | some (o, s) => if s.state.waiting then c.failWaiting o s why else c
  | none => c

/-- A move that needs no motion reports arrival at its start (R121). Its axis is left SETTLING, as by every other end of
motion: DEDUCED, log 53. -/
def arriveAtOnce (c : Cabin) (d : Dock) : Cabin :=
  match c.movingStep? d with
  | some (_, s) => if s.state = .starting then c.finishMove d else c
  | none => c

/-- One block takes what it is told. -/
def runTask (t : Task) (c : Cabin) : Cabin :=
  match t with
  | .retryClaims => c.retryClaims
  | .attempt r => c.attempt r
  | .testDock d => c.testDock d
  | .request r => c.makeRequest r
  | .pass => c.pass
  | .release r => c.releaseGrant r
  | .arriveAtOnce d => c.arriveAtOnce d
  | .foldAtGrant d => c.foldAtGrant d
  | .endStopping d => c.endStopping d
  | .occupancyTold d => c.occupancyTold d
  | .channelTold d ch => c.channelTold d ch
  | .budget e => c.changeBudget e
  | .parkedLost => c.parkedLost
  | .parkedBack => c.parkedBack
  | .judge d r f first reversing change => c.judge d r f first reversing change

/-- The tasks run in order, each with all it tells in its turn before the next; `n` bounds their number (log 3). -/
def drain : Nat → List Task → Cabin → Cabin
  | 0, l, c => { c with agenda := l ++ c.agenda }
  | _ + 1, [], c => c
  | n + 1, t :: l, c =>
    let c := runTask t { c with agenda := [] }
    drain n (c.agenda ++ l) { c with agenda := [] }

/-- Everything told inside the present command is taken. -/
def cascade (c : Cabin) : Cabin := drain 4096 c.agenda { c with agenda := [] }

end Cabin

end Sys2Proof.Machine
end

