-- ==== Sys2Proof/Machine/Operands.lean ====
section
/-! DEFINITION. Request arguments as the rules read them, detail codes, answers, and the access table of R170. -/

namespace Sys2Proof.Machine

open Sys2Proof

/-! ### Answers -/

/-- An OK with data. -/
def okWith (data : List Byte) : Answer := { code := .ok, data := data }

/-- OK with detail NOTHING_TO_DO, which is 1 (section 11.6). -/
def nothingToDo : Answer := { code := .ok, detail := some 1 }

/-- A refusal with no detail. -/
def refuse (code : Code) : Answer := { code := code }

/-- A refusal with a detail code. -/
def refuseWith (code : Code) (detail : Nat) : Answer := { code := code, detail := some detail }

/-- The detail code STEP_LIMIT (section 11.6). -/
def stepLimit : Nat := 2

/-! ### Classes (R53, R170) -/

def mayWriteLayouts : ReqClass → Bool
  | .body | .gateway | .service => true
  | _ => false

def mayInvoke : ReqClass → Bool
  | .body | .access | .gateway | .service => true
  | _ => false

def mayReEnroll : ReqClass → Bool
  | .body | .service => true
  | _ => false

/-! ### Arguments -/

/-- An optional urgency argument: outer none where the code has no value assigned (R78, R181). -/
def urgencyArg : Option Nat → Option (Option Urgency)
  | none => some none
  | some n => (Urgency.ofCode? n).map some

/-- The urgency taken: EGRESS from GATEWAY is taken as COMFORT (R78). -/
def urgencyTaken (cls : ReqClass) (u : Urgency) : Urgency := if cls = .gateway then .comfort else u

/-- An expected generation, when given, lies within 1 to 65535 (R78). -/
def generationOk : Option Nat → Bool
  | none => true
  | some n => 1 ≤ n && n ≤ 65535

/-- The dock number and the axis kind of a request. -/
def dockAxisArg (dock axis : Nat) : Option (Dock × AxisKind) :=
  match Dock.ofNum? dock, AxisKind.ofCode? axis with
  | some d, some k => some (d, k)
  | _, _ => none

/-- The part asked for; a request without it asks for part 0 (R183). -/
def partArg : Option Nat → Nat
  | none => 0
  | some n => n

/-- Override parameters in the order of R119's table: RAMP, CREEP, CREEP_SPEED, SPEED. -/
inductive Param | ramp | creep | creepSpeed | speed
deriving DecidableEq, Repr

def Param.ofCode? : Nat → Option Param
  | 0 => some .ramp | 1 => some .creep | 2 => some .creepSpeed | 3 => some .speed
  | _ => none

/-- An override value clamped to its range (R120). -/
def Param.clamp : Param → Nat → Nat
  | .ramp => clampTo 8 400
  | .creep => clampTo 4 64
  | .creepSpeed => clampTo 10 50
  | .speed => clampTo 20 2000

/-- An override place with one parameter set or cleared (R120). -/
def Override.put (o : Override) (p : Param) (v : Option Nat) : Override :=
  match p with
  | .ramp => { o with ramp := v }
  | .creep => { o with creep := v }
  | .creepSpeed => { o with creepSpeed := v }
  | .speed => { o with speed := v }

/-- A binding that keeps to the table of R166. -/
def bindingOf? (b : RawBinding) : Option Binding :=
  match Gesture.ofCode? b.gesture with
  | none => none
  | some g =>
    let zoneOk := match g, b.zone with
      | .tap, some z => decide (z ≤ 3)
      | .tap, none => false
      | _, z => z.isNone
    let action : Option Action := match g, b.action with
      | .swipeHold, 2 => (Dock.ofNum? b.arg).map .jog
      | .swipeHold, _ => none
      | _, 0 => if 1 ≤ b.arg ∧ b.arg ≤ 24 then some (.invoke b.arg) else none
      | _, 1 => (Dock.ofNum? b.arg).map .toggle
      | _, _ => none
    if zoneOk then action.map fun a => ⟨g, b.zone, a⟩ else none

/-- The bindings of a write, or the index, from 1, of the first faulty one (R166). A list of more than 8 has its ninth
as the first faulty binding. -/
def bindingsOf (l : List RawBinding) : Except Nat (List Binding) :=
  match (l.zipIdx.find? fun p => (bindingOf? p.1).isNone || 8 ≤ p.2) with
  | some p => .error (p.2 + 1)
  | none => .ok (l.filterMap bindingOf?)

/-! ### Limits (R151, R178) -/

/-- A new prox threshold clamped, the touch threshold and hysteresis brought into order with it (R151). -/
def Thresholds.setProx (t : Thresholds) (v : Nat) : Thresholds :=
  let p := clampTo 4 250 v
  ⟨p, if t.touch ≤ p then p + 1 else t.touch, if p ≤ t.hysteresis then p - 1 else t.hysteresis⟩

def Thresholds.setTouch (t : Thresholds) (v : Nat) : Thresholds := { t with touch := clampTo (t.prox + 1) 500 v }

def Thresholds.setHysteresis (t : Thresholds) (v : Nat) : Thresholds := { t with hysteresis := clampTo 1 (t.prox - 1) v }

/-- The limits with the thresholds of one kind changed. -/
def Limits.modThresholds (l : Limits) (k : ChanKind) (f : Thresholds → Thresholds) : Limits :=
  match k with
  | .cushion => { l with cushion := f l.cushion }
  | .back => { l with back := f l.back }
  | .lid => { l with lid := f l.lid }
  | .strip => { l with strip := f l.strip }

/-- The limits after the write of an item, and the value taken; none for the identifier items, an unknown item, and a
notice mode code with no value assigned (R178, R181). -/
def applyLimit? (w : LimitWrite) (l : Limits) : Option (Limits × Nat) :=
  match w with
  | .blockWait v => some ({ l with blockWait := clampTo 1 60 v }, clampTo 1 60 v)
  | .currentFilter v => some ({ l with currentFilter := clampTo 16 255 v }, clampTo 16 255 v)
  | .slideMargin v => some ({ l with slideMargin := clampTo 200 5000 v }, clampTo 200 5000 v)
  | .axisMargin v => some ({ l with axisMargin := clampTo 200 5000 v }, clampTo 200 5000 v)
  | .reverseDistance v => some ({ l with reverseDistance := clampTo 8 200 v }, clampTo 8 200 v)
  | .prox k v => let l := l.modThresholds k fun t => t.setProx v; some (l, (l.thresholds k).prox)
  | .touch k v => let l := l.modThresholds k fun t => t.setTouch v; some (l, (l.thresholds k).touch)
  | .hysteresis k v => let l := l.modThresholds k fun t => t.setHysteresis v; some (l, (l.thresholds k).hysteresis)
  | .presenceFilter v => some ({ l with presenceFilter := clampTo 16 255 v }, clampTo 16 255 v)
  | .tuningBand v => some ({ l with tuningBand := clampTo 80 1600 v }, clampTo 80 1600 v)
  | .noticeMode 0 => some ({ l with stream := false }, 0)
  | .noticeMode 1 => some ({ l with stream := true }, 1)
  | .noticeMode _ | .identifier _ _ | .unknown _ => none

/-! ### Identifiers (R169) -/

/-- The fixed identifiers of a record. -/
def IdentRecord.fixed (r : IdentRecord) : List Nat := [r.notice, r.vehicle, r.intrusion, r.sleep]

/-- The identifiers of a binding place. -/
def placeIdents : Option IdentBinding → List Nat
  | some b => [b.request, b.response]
  | none => []

/-- Some binding is of class SERVICE. -/
def IdentRecord.hasService (r : IdentRecord) : Bool := r.places.any fun p => p.any fun b => b.cls = .service

/-- The identifier record after the write of a place, where R169 allows it; the place being written does not count
against its own new identifiers (log 24). -/
def IdentRecord.write? (r : IdentRecord) (place : Nat) (b : Option RawIdent) : Option IdentRecord :=
  if 15 < place then none
  else
    let others := r.places.set place none
    let used := others.flatMap placeIdents ++ r.fixed
    let new : Option (Option IdentBinding) := match b with
      | none => some none
      | some b =>
        match ReqClass.ofCode? b.cls with
        | none => none
        | some cls => if used.contains b.request || b.response = r.notice then none else some (some ⟨b.request, b.response, cls⟩)
    match new with
    | none => none
    | some p =>
      let r' := { r with places := r.places.set place p }
      if r'.hasService then some r' else none

/-- The binding a frame's identifier belongs to (R169). -/
def IdentRecord.binding? (r : IdentRecord) (ident : Nat) : Option IdentBinding :=
  r.places.findSome? fun p => match p with
    | some b => if b.request = ident then some b else none
    | none => none

end Sys2Proof.Machine
end

