-- ==== Sys2Proof/Machine/Flags.lean ====
section
/-! DEFINITION. The conditions the Port and the power states keep: PARKED (R171), the voltage in force (R103), the quiet
condition (R175), the sleep condition and the entries to AWAKE, DOZE and SLEEP (R24, R160, R161, R175, R176). -/

namespace Sys2Proof.Machine

open Sys2Proof

/-- PARKED: gear PARK, speed below 3.0 km/h, frames fresh (R171). -/
def Port.isParked (p : Port) : Bool := p.gear = .park && p.speed < 30 && p.fresh.isSome

/-- The voltage in force: that of the last frame while the frames are fresh, else 0 (R103). -/
def Port.voltageInForce (p : Port) : Nat := if p.fresh.isSome then p.voltage else 0

namespace State

/-! ### Access -/

def modCab (s : State) (f : Cabin → Cabin) : State := { s with cab := f s.cab }

/-- What is told inside the command is taken (log 3). -/
def cascade (s : State) : State := s.modCab Cabin.cascade

/-- Nothing has been sent yet in the present command (log 5). -/
def quietWires (s : State) : State := { s with port := { s.port with tx := [] }, link := { s.link with tx := [] } }

/-- The clock taken to a moment that may already have passed (log 2). -/
def reach (s : State) (t : Nat) : State := s.modCab fun c => { c with now := max c.now t }

/-! ### Conditions (R175, R176) -/

def docksIn (s : State) (l : List DockState) : Bool := Dock.all.any fun d => l.contains (s.cab.dock d).state

/-- The quiet condition (R175). -/
def quietHolds (s : State) : Bool :=
  s.cab.pool.active.isEmpty && s.pad.touch.isNone && !s.docksIn [.seating, .enrolling, .vacating]

/-- The condition for SLEEP (R176). -/
def sleepHolds (s : State) : Bool :=
  s.cab.pool.active.isEmpty && s.pad.touch.isNone && !s.docksIn [.seating, .vacating]

/-! ### Power states -/

/-- DOZE is left for AWAKE: rounds every 10 ms again (R175). -/
def leaveDoze (s : State) : State :=
  if s.port.power = .doze then
    { s with port := { s.port with power := .awake }, link := { s.link with boundary := s.cab.now + 10 } }
  else s

/-- DOZE is entered: rounds every 100 ms (R175). -/
def enterDoze (s : State) : State :=
  { s with
    port := { s.port with power := .doze, quiet := none }
    link := { s.link with boundary := s.cab.now + 100 } }

/-- The frame of each response of a queue, the first one with the lost-request count (R170). -/
def responseFrames (lost : Nat) : List Response → List CanFrame
  | [] => []
  | r :: l => r.frame lost :: l.map fun r => r.frame 0

/-- The queued responses are sent (R176, R180). -/
def sendQueue (s : State) : State :=
  if s.port.queue.isEmpty then s
  else { s with port := { s.port with
    queue := [], lost := 0, tx := s.port.tx ++ responseFrames s.port.lost s.port.queue } }

/-- SLEEP is entered: responses sent, link stopped, dock power off, quiet timer stopped (R24, R176). -/
def enterSleep (s : State) : State :=
  let s := s.sendQueue
  { s with
    cab := s.cab.dockSleep
    port := { s.port with power := .sleep, quiet := none, sleepHeld := false }
    link := { s.link with left := [], due := false, answerBy := none } }

/-- SLEEP is left for AWAKE: rounds resume, docks, channels and pad with them (R24, R160, R161, R176). -/
def leaveSleep (s : State) : State :=
  if s.port.power = .sleep then
    { s with
      cab := s.cab.dockWake
      port := { s.port with power := .awake }
      link := { s.link with boundary := s.cab.now + 10 }
      pad := { s.pad with unanswered := 0, electrodes := s.pad.electrodes.map Chan.wake } }
  else s

/-- AWAKE from wherever the part is. -/
def wake (s : State) : State := s.leaveSleep.leaveDoze

/-- The quiet timer runs while the quiet condition holds in AWAKE (R175). -/
def keepQuiet (s : State) : State :=
  let t := if s.port.power = .awake && s.quietHolds then some (s.port.quiet.getD (s.cab.now + 60000)) else none
  { s with port := { s.port with quiet := t } }

/-- The end of every command: the quiet timer, and SLEEP where it was held back and its condition has come to hold
(R175, R176). -/
def closing (s : State) : State :=
  let s := s.keepQuiet
  if s.port.sleepHeld && s.port.power != .sleep && s.sleepHolds then s.enterSleep else s

/-- The end of a command that acted on the cabin. -/
def finish (s : State) : State := s.cascade.closing

/-! ### Timers -/

/-- An expiry: on a running timer the clock goes to its moment and it takes effect; on a stopped one nothing happens
(00_scope.md, Time; log 2). -/
def expire (s : State) (t : Timer) (act : State → State) : State :=
  match t with
  | some t => (act (s.reach t)).finish
  | none => s

end State

end Sys2Proof.Machine
end

