-- ==== Sys2Proof/Machine/StoreOps.lean ====
section
/-! DEFINITION. The Settings Store: write-due flags, writes and their completion (R70, R177), and the loading at a reset
(R71, R177, R179). -/

namespace Sys2Proof

/-- The settings records in the table order of section 10.6. -/
def SettingsId.all : List SettingsId := [.identifiers, .geometry, .dockTable, .budget, .limits, .overrides, .bindings]

end Sys2Proof

namespace Sys2Proof.Machine

open Sys2Proof

/-! ### Copies (R177) -/

/-- The contents of a settings record, copied. -/
def Settings.copyOf (s : Settings) : SettingsId → SettingsCopy
  | .identifiers => .identifiers s.identifiers
  | .geometry => .geometry s.geometry
  | .dockTable => .dockTable s.dockTable
  | .budget => .budget s.budget
  | .limits => .limits s.limits
  | .overrides => .overrides s.overrides
  | .bindings => .bindings s.bindings

/-- The record a copy is of. -/
def SettingsCopy.id : SettingsCopy → SettingsId
  | .identifiers _ => .identifiers
  | .geometry _ => .geometry
  | .dockTable _ => .dockTable
  | .budget _ => .budget
  | .limits _ => .limits
  | .overrides _ => .overrides
  | .bindings _ => .bindings

/-- Settings with a copy's record put in. -/
def Settings.put (s : Settings) : SettingsCopy → Settings
  | .identifiers r => { s with identifiers := r }
  | .geometry r => { s with geometry := r }
  | .dockTable r => { s with dockTable := r }
  | .budget r => { s with budget := r }
  | .limits r => { s with limits := r }
  | .overrides r => { s with overrides := r }
  | .bindings r => { s with bindings := r }

/-- The stored layouts with a position written: a record, or the empty record (R70). -/
def putStored (l : List StoredLayout) (n : Nat) (copy : Option StoredLayout) : List StoredLayout :=
  let others := l.filter fun x => x.number != n
  match copy with
  | some x => x :: others
  | none => others

/-- A write that passes its read-back stands in the memory, and its record's check is good again. -/
def Nonvolatile.write (nv : Nonvolatile) : Writing → Nonvolatile
  | .settings copy =>
    { nv with settings := nv.settings.put copy, bad := nv.bad.filter fun r => r != .settings copy.id }
  | .layout n copy =>
    { nv with layouts := putStored nv.layouts n copy, bad := nv.bad.filter fun r => r != .layout n }

/-- A write-due flag set (R177). -/
def Store.setDue (st : Store) (i : SettingsId) : Store := if st.due.contains i then st else { st with due := i :: st.due }

/-- The first settings record with its flag set, in table order (R177). -/
def Store.firstDue (st : Store) : Option SettingsId := SettingsId.all.find? st.due.contains

/-- The marks of a WRITE_GEOMETRY or WRITE_DOCK_TABLE in progress, after a write of a record has completed (R177). While the
record's flag is set again the write that completed held older contents, and the request stays in progress until the write of
its own completes: DEDUCED, log 67. -/
def Store.endBusy (st : Store) (i : SettingsId) : Store :=
  if st.due.contains i then st
  else
    match i with
    | .geometry => { st with geometryBusy := false }
    | .dockTable => { st with dockTableBusy := false }
    | _ => st

namespace State

/-- The store may begin a write: none in progress, not in SLEEP, no reset waiting (R177, R180). -/
def mayWrite (s : State) : Bool := s.store.writing.isNone && s.port.power != .sleep && !s.port.resetting

/-- A settings write begins: the flag cleared, the contents copied (R177). -/
def beginSettingsWrite (s : State) : State :=
  match s.mayWrite, s.store.firstDue with
  | true, some i =>
    { s with store := { s.store with
        due := s.store.due.filter fun j => j != i, writing := some (.settings (s.cab.set.copyOf i)) } }
  | _, _ => s

/-- A layout write begins, where no settings record is due: the lowest dirty number leaves the set, its stored fields or
an empty record copied (R70, R177). -/
def beginLayoutWrite (s : State) : State :=
  match s.mayWrite && s.store.due.isEmpty, s.cab.layouts.dirty with
  | true, n :: rest =>
    { s with
      cab := { s.cab with layouts := { s.cab.layouts with dirty := rest } }
      store := { s.store with writing := some (.layout n ((s.cab.layouts.find? n).map LayoutRec.toStored)) } }
  | _, _ => s

/-- A settings write completes with the outcome of its read-back (R177). -/
def endSettingsWrite (s : State) (ok : Bool) : State :=
  match s.store.writing with
  | some (.settings copy) =>
    let nv := if ok then s.store.nv.write (.settings copy) else s.store.nv
    let s := { s with store := { s.store with nv := nv, writing := none }.endBusy copy.id }
    if ok then s else s.modCab fun c => c.notify (.store (.settings copy.id)) (some .writeFailed)
  | _ => s

/-- The store state of a record after a write of it has completed (R70). -/
def storeStateAfter (ok dirty : Bool) : StoreState := if dirty then .pending else if ok then .stored else .volatile

/-- A layout write completes with the outcome of its read-back (R70). -/
def endLayoutWrite (s : State) (ok : Bool) : State :=
  match s.store.writing with
  | some (.layout n copy) =>
    let nv := if ok then s.store.nv.write (.layout n copy) else s.store.nv
    let s := { s with store := { s.store with nv := nv, writing := none } }
    let dirty := s.cab.layouts.dirty.contains n
    let s := s.modCab fun c =>
      { c with layouts := { c.layouts with live := c.layouts.live.map fun l =>
          if l.number = n then { l with store := storeStateAfter ok dirty } else l } }
    if ok then s else s.modCab fun c => c.notify (.store (.layout n)) (some .writeFailed)
  | _ => s

end State

/-! ### Loading (R71, R179) -/

/-- The settings loaded: a record whose stored copy fails its check takes its default (R179 step 1). -/
def Nonvolatile.loadSettings (nv : Nonvolatile) : Settings :=
  (SettingsId.all.filter fun i => nv.bad.contains (.settings i)).foldl (fun s i => s.put (defaultSettings.copyOf i))
    nv.settings

/-- The settings records in the order of loading (R179 step 1). -/
def loadOrder : List SettingsId := [.identifiers, .budget, .limits, .overrides, .bindings, .geometry, .dockTable]

/-- The settings records that fail their check, in the order of loading. -/
def Nonvolatile.badSettings (nv : Nonvolatile) : List SettingsId := loadOrder.filter fun i => nv.bad.contains (.settings i)

/-- A stored position as it loads: what is live, and the indication of its STORE notice (R71). -/
structure Loaded where
  number : Nat
  live : Option LayoutRec
  told : Option Indication
deriving DecidableEq, Repr

/-- The layout positions in number order. -/
def positions : List Nat := (List.range 24).map (· + 1)

/-- A factory position at its built-in default (R71). -/
def restored (n : Nat) : Loaded := ⟨n, factoryRecord n .pending, some .restored⟩

/-- A position whose stored record fails its check (R71). -/
def loadFailed (n : Nat) : Loaded := if n ≤ 6 then restored n else ⟨n, none, some .lost⟩

/-- The contents of a stored record that passes its check and the content checks of R58 (R71). -/
def storedContents? (x : StoredLayout) : Option Contents :=
  match contentsOf? x.contents with
  | some k => if x.number ≤ 6 && k.owner != 0 then none else some k
  | none => none

/-- One position loaded; `seen` holds the labels of lower-numbered stored records that are live (R71). The label of a
lower-numbered record that has been restored is not among them, so that a FACTORY record stored with such a label does not fail
alone but makes a clash of factory labels (`factoryClash`), which restores all six: DEDUCED, log 78. -/
def loadOne (nv : Nonvolatile) (seen : List (List Nat)) (n : Nat) : Loaded :=
  if nv.bad.contains (.layout n) then loadFailed n
  else
    match nv.layouts.find? fun x => x.number = n with
    | none => if n ≤ 6 then restored n else ⟨n, none, none⟩
    | some x =>
      match storedContents? x with
      | none => loadFailed n
      | some k => if seen.contains k.label then loadFailed n else ⟨n, some (k.record n x.generation .stored), none⟩

/-- The stored labels seen after a position has loaded. -/
def seenAfter (seen : List (List Nat)) (l : Loaded) : List (List Nat) :=
  match l.live, l.told with
  | some r, none => r.label :: seen
  | _, _ => seen

/-- The positions loaded in number order (R71). -/
def loadAll (nv : Nonvolatile) : List Nat → List (List Nat) → List Loaded
  | [], _ => []
  | n :: ns, seen =>
    let l := loadOne nv seen n
    l :: loadAll nv ns (seenAfter seen l)

/-- The labels of the restored records among the loaded. -/
def restoredLabels (l : List Loaded) : List (List Nat) :=
  l.filterMap fun x => if x.told = some .restored then x.live.map (·.label) else none

/-- A restored factory label equals that of a factory record loaded from its stored copy (R71). -/
def factoryClash (l : List Loaded) : Bool :=
  l.any fun x => x.number ≤ 6 && x.told.isNone && x.live.any fun r => (restoredLabels l).contains r.label

/-- A live USER record whose label a restored factory record has is freed and LOST (R71). -/
def freeClashing (labels : List (List Nat)) (x : Loaded) : Loaded :=
  if 7 ≤ x.number && x.live.any fun r => labels.contains r.label then ⟨x.number, none, some .lost⟩ else x

/-- The positions as the loading leaves them: on a clash among the factory labels all six are restored, and then clashing
USER records are freed (R71). -/
def Nonvolatile.loadLayouts (nv : Nonvolatile) : List Loaded :=
  let l := loadAll nv positions []
  let l := if factoryClash l then l.map fun x => if x.number ≤ 6 then restored x.number else x else l
  l.map (freeClashing (restoredLabels l))

/-- The Layout Table after loading: every record NO_MATCH, no match, the dirty set of the restored and lost (R50, R71). -/
def loadedTable (l : List Loaded) : LayoutTable :=
  ⟨l.filterMap (·.live), none, (l.filter fun x => x.told.isSome).map (·.number)⟩

/-- The STORE notices of the loading, in the order they were made (R179 step 5). Those of the layouts stand in the order of
their positions, also where a clash has restored all six factory records (R71): DESIGN CHOICE, log 57. -/
def loadNotices (bad : List SettingsId) (l : List Loaded) : List Notice :=
  (bad.map fun i => ⟨.store (.settings i), some .restored⟩) ++
    l.filterMap fun x => x.told.map fun i => ⟨.store (.layout x.number), some i⟩

namespace State

/-- The part after power-on or SOFT_RESET (R179): everything loaded from the store, every block at its reset state, the
latches read. The latch lines are pins and the queue is the model's own; both stay. Docks found latched enter SEATING, and
install their envelopes, in dock order: DESIGN CHOICE, log 47. -/
def boot (s : State) (failing : List RecId) : State :=
  let nv := { s.store.nv with bad := s.store.nv.bad ++ failing.filter fun r => !s.store.nv.bad.contains r }
  let loaded := nv.loadLayouts
  let s' : State :=
    { cab := bootCabin nv.loadSettings (loadedTable loaded) (loadNotices nv.badSettings loaded)
      port := bootPort
      link := bootLink
      pad := bootPad
      store := bootStore nv nv.badSettings
      latchA := s.latchA
      latchB := s.latchB
      intrusion := some 1000
      pending := s.pending }
  let closed := Dock.all.filter fun d => s.latchA.get d && s.latchB.get d
  (s'.modCab fun c => closed.foldl (fun c d => c.latchClosed d) c).finish

end State

end Sys2Proof.Machine
end

