-- ==== Sys2Proof/Machine/Link.lean ====
section
/-! DEFINITION. The Seat Link Controller: rounds, slots and what each slot carries (R13, R14, R16, R19, R20, R24, R148,
R161), and the answers of the docks (R6, R7, R9, R14). -/

namespace Sys2Proof.Machine

open Sys2Proof

namespace State

/-- A frame put on the Seat Link. -/
def sendLink (s : State) (bs : List Byte) : State := { s with link := { s.link with tx := s.link.tx ++ [bs] } }

/-- The answer limit of 1 ms starts with the frame (R14). -/
def awaitAnswer (s : State) : State := { s with link := { s.link with answerBy := some (s.cab.now + 1) } }

/-- A drive frame to a dock with a motor command; the command and its setpoint are the last sent (R14, R121, R131). -/
def sendDrive (s : State) (d : Dock) (cmd : MotorCmd) : State :=
  let r := s.cab.dock d
  let s := (s.sendLink (driveFrame d r.lamp cmd r.chans)).awaitAnswer
  let s := { s with link := { s.link with sent := s.link.sent.set d cmd } }
  match cmd with
  | .brake => s
  | .drive _ _ v => s.modCab fun c => c.modMove d fun m => { m with lastSetpoint := v }

/-- A controller page to a dock (R16). -/
def sendPage (s : State) (d : Dock) (p : ControllerPage) (toggle : Bool) : State :=
  s.sendLink (pageFrame d p toggle (s.cab.dock d).lamp)

/-- The slot of a dock (R13): what it sends, and whether the round waits there for an answer. While the power-up delay runs no
frame goes out, and a VERDICT page still owed (R20) waits for the first slot after it: DESIGN CHOICE, log 76. -/
def sendDockSlot (s : State) (d : Dock) : State × Bool :=
  let r := s.cab.dock d
  if r.powerUp.isSome then (s, false)
  else
    match r.state with
    | .empty | .seating | .vacating => (s, false)
    | .enrolling =>
      match r.exchange.bind fun x => (Cabin.pageDue x).map fun p => (p, x.toggle) with
      | some (p, t) =>
        ((s.sendPage d p t).modCab fun c => c.modDock d fun r => { r with pageLimit := some (c.now + 20) }, true)
      | none => (s, false)
    | .ready => (s.sendDrive d r.command, true)
    | .silent =>
      let s := s.sendDrive d .brake
      let s := if r.silenceOwed then
          s.modCab fun c => c.modDock d fun r => { r with silence := some (c.now + 2000), silenceOwed := false }
        else s
      (s, true)
    | .faulted =>
      match r.verdictDue, r.exchange with
      | some why, some x =>
        ((s.sendPage d (.rejected why) x.toggle).modCab fun c => c.modDock d fun r => { r with verdictDue := none }, false)
      | _, _ => (s.sendDrive d .brake, true)

/-- A slot of the round (R13, R161). -/
def sendSlot (s : State) : LinkSlot → State × Bool
  | .dock d => s.sendDockSlot d
  | .pad => ((s.sendLink (padFrame s.pad.electrodes)).awaitAnswer, true)

/-- The slots visited in order until one waits for its answer. -/
def visit : List LinkSlot → State → State
  | [], s => { s with link := { s.link with left := [], answerBy := none } }
  | x :: l, s =>
    let p := s.sendSlot x
    if p.2 then { p.1 with link := { p.1.link with left := x :: l } } else visit l p.1

/-- Whether a dock's slot carries frames in a round that begins now: dock power is ON and its delay is over (R5, R13,
R24). -/
def hasFrames (s : State) (d : Dock) : Bool :=
  (s.cab.dock d).powerUp.isNone && match (s.cab.dock d).state with
    | .empty | .seating | .vacating => false
    | _ => true

/-- The slots of a round that carry frames: docks in dock order, then the pad (R13). -/
def roundSlots (s : State) : List LinkSlot := ((Dock.all.filter s.hasFrames).map LinkSlot.dock) ++ [.pad]

/-- A dock that begins an exchange while a round runs sends its first page in the next round (R5). -/
def dropSlot (s : State) (d : Dock) : State :=
  match s.link.left with
  | x :: l => { s with link := { s.link with left := x :: l.filter fun y => y != .dock d } }
  | [] => s

/-- A round begins (R13). -/
def startRound (s : State) : State :=
  visit s.roundSlots { s with link := { s.link with due := false, answerBy := none } }

/-- The slot that waits is done: the round goes on, and when it has finished the next one begins if its boundary has
passed (R13). -/
def advance (s : State) (x : LinkSlot) : State :=
  if s.link.left.head? = some x then
    let s := visit s.link.left.tail { s with link := { s.link with answerBy := none } }
    if s.link.left.isEmpty && s.link.due then s.startRound else s
  else s

/-- The round is held on a slot whose page limit runs (R16). -/
def held (s : State) : Bool :=
  match s.link.left.head? with
  | some (.dock d) => (s.cab.dock d).pageLimit.isSome
  | _ => false

/-- A round that was held on a page goes on once the page limit that held it has been stopped (R5, R16). -/
def resume (s : State) (wasHeld : Bool) : State :=
  match s.link.left.head? with
  | some x => if wasHeld && !s.held then s.advance x else s
  | none => s

/-- The period of the rounds: 10 ms in AWAKE, 100 ms in DOZE (R13). -/
def period (s : State) : Nat := if s.port.power = .doze then 100 else 10

/-- A poll period boundary (R13): a round begins, or is due while the one before has not finished. -/
def boundary (s : State) : State :=
  if s.port.power = .sleep then s
  else
    let s := s.reach s.link.boundary
    let late := s.cab.now - s.link.boundary
    let s := { s with link := { s.link with boundary := s.link.boundary + s.period * (late / s.period + 1) } }
    if s.link.left.isEmpty then s.startRound else { s with link := { s.link with due := true } }

/-! ### Answers of the docks -/

/-- The round waits at a slot for the status answer to the drive frame sent there (R13, R14; log 9). -/
def awaits (s : State) (x : LinkSlot) : Bool :=
  s.port.power != .sleep && s.link.left.head? == some x && s.link.answerBy.isSome

/-- The slot of a dock waits for its status answer. -/
def polled (s : State) (d : Dock) : Bool := s.awaits (.dock d)

/-- The answer limit has not passed (R14). -/
def inTime (s : State) : Bool := s.link.answerBy.all fun t => s.cab.now ≤ t

/-- The status frame reports a change of switches, which brings the part from DOZE to AWAKE (R15, R175). -/
def switchWake (s : State) (d : Dock) (f : StatusFrame) : State :=
  if s.cab.ready d && (s.cab.dock d).switches != some f.switches then s.leaveDoze else s

/-- An answered poll by the dock state: taken in READY, discarded otherwise, SILENT enrolling again (R7, R9, R15). -/
def dockAnswered (s : State) (d : Dock) (f : StatusFrame) : State :=
  match (s.cab.dock d).state with
  | .ready => (s.switchWake d f).modCab fun c => c.statusFrame d (s.link.sent.get d) f
  | .silent => (s.modCab fun c => c.enterEnrolling d).dropSlot d
  | _ => s

/-- A missing answer of a dock's slot (R14). -/
def missDockAnswer (s : State) (d : Dock) : State :=
  if s.polled d then ((s.modCab fun c => c.pollMissed d).cascade.advance (.dock d)).finish else s

/-- The answer of a dock's slot, and the round going on: a late, corrupt or foreign one is a missing one (R14). -/
def takeDockAnswer (s : State) (d : Dock) (bs : List Byte) : State :=
  match if s.inTime then decodeStatus d bs else none with
  | some f => if s.polled d then ((s.dockAnswered d f).cascade.advance (.dock d)).finish else s
  | none => s.missDockAnswer d

/-- The fifth consecutive unanswered poll of a READY dock (R6). -/
def fifthMiss (s : State) (d : Dock) : State :=
  if s.polled d && s.cab.ready d && 4 ≤ (s.cab.dock d).unanswered then s.missDockAnswer d else s

/-- The page limit expires with no node page taken: NO_RESPONSE (R16, R19). -/
def pageExpired (s : State) (d : Dock) : State :=
  match (s.cab.dock d).pageLimit with
  | none => s
  | some t =>
    (((s.reach t).modCab fun c => c.failExchange d .noResponse true).cascade.advance (.dock d)).finish

/-- A node page: within the limit that runs it is checked, after it the failure is that of the limit, and with no limit
running it is discarded (R16, R17). -/
def takeNodePage (s : State) (d : Dock) (bs : List Byte) : State :=
  match (s.cab.dock d).pageLimit with
  | none => s
  | some t =>
    if (s.cab.dock d).state != .enrolling then s
    else if t < s.cab.now then s.pageExpired d
    else ((s.modCab fun c => c.takePage d (decodePage d bs)).cascade.advance (.dock d)).finish

end State

end Sys2Proof.Machine
end

