-- ==== Sys2Proof/Machine/Rules.lean ====
section
/-! DEFINITION. The admission checks of INVOKE_LAYOUT, MOVE_AXIS, HOMING and JOG (R78, R83 to R85). Each gives the order to
be admitted, or the answer that ends the request without one. -/

namespace Sys2Proof.Machine

open Sys2Proof

namespace Cabin

/-- The last check of every admission: a free slot (R74). -/
def slotFor (c : Cabin) (a : Admission) : Except Answer Admission :=
  if c.pool.free.isEmpty then .error (refuse .poolFull) else .ok a

/-- Checks 3 to 10 of R78 for a number, an expected generation, the urgency to be taken and an origin. -/
def checkInvoke (c : Cabin) (parked : Bool) (n : Nat) (gen : Option Nat) (urgency : LayoutRec → Urgency)
    (origin : OrderOrigin) : Except Answer Admission :=
  match c.layouts.find? n with
  | none => .error (refuse .notFound)
  | some l =>
    if gen.any fun g => g != l.generation then .error (refuseWith .staleGeneration l.generation)
    else
      match l.validation with
      | .infeasible lo hi => .error (refuseWith .infeasible (lo.num * 16 + hi.num))
      | .noMatch => .error (refuse .dockNotReady)
      | _ =>
        let plans := expand c.docks l.entries
        if !parked then .error (refuse .notParked)
        else if 20 < plans.length then .error (refuseWith .badArgument stepLimit)
        else if plans.isEmpty then .error nothingToDo
        else c.slotFor ⟨origin, .arrange, some (l.number, l.generation), urgency l, plans⟩

/-- Checks 3 to 7 of R83 for a dock, an axis kind, a target, an urgency and an origin. -/
def checkMove (c : Cabin) (parked : Bool) (d : Dock) (k : AxisKind) (target : Nat) (urgency : Urgency)
    (origin : OrderOrigin) : Except Answer Admission :=
  if !c.ready d then .error (refuse .dockNotReady)
  else
    match c.axis? d k, (c.dock d).geometry with
    | some a, some e =>
      let plans := targetPlans d a e (min target (if k = .slide then 1000 else 7))
      if !a.enabled then .error (refuse .badArgument)
      else if !parked then .error (refuse .notParked)
      else if plans.isEmpty then .error nothingToDo
      else c.slotFor ⟨origin, .single, none, urgency, plans⟩
    | _, _ => .error (refuse .badArgument)

/-- The checks of R84 from the dock's state on: one axis, or all that are not DISABLED. -/
def checkHoming (c : Cabin) (parked : Bool) (d : Dock) (k : Option AxisKind) (origin : OrderOrigin) :
    Except Answer Admission :=
  if !c.ready d then .error (refuse .dockNotReady)
  else
    let plans := homingPlans d ((c.dock d).axes.filter fun a => k.isNone || k = some a.kind)
    if plans.isEmpty then .error (refuse .badArgument)
    else if !parked then .error (refuse .notParked)
    else c.slotFor ⟨origin, .homing, none, .comfort, plans⟩

/-- The checks of R85: a jog of a dock, rearward or forward. -/
def checkJog (c : Cabin) (parked : Bool) (d : Dock) (rearward : Bool) : Except Answer Admission :=
  match c.ready d, c.axis? d .slide with
  | true, some a =>
    if !a.enabled || a.ref = .referenceFault then .error (refuse .badArgument)
    else if !parked then .error (refuse .notParked)
    else c.slotFor ⟨.cargoStrip, .jog, none, .comfort,
      [⟨d, .slide, .jog, if rearward then a.travel else 0, if rearward then .deploying else .stowing⟩]⟩
  | _, _ => .error (refuse .dockNotReady)

/-- TOGGLE: a MOVE_AXIS of the dock's base axis (R167). -/
def checkToggle (c : Cabin) (parked : Bool) (d : Dock) : Except Answer Admission :=
  match c.ready d, (c.dock d).identity, (c.dock d).geometry with
  | true, some i, some e =>
    let k := i.kind.baseAxis
    let target := match c.axis? d k with
      | some a => if a.ref = .referenced && a.stationAt e a.count = 0 then 7 else 0
      | none => 0
    c.checkMove parked d k target .comfort .cargoStrip
  | _, _, _ => .error (refuse .dockNotReady)

end Cabin

end Sys2Proof.Machine
end

