-- ==== Sys2Proof/Machine/Strip.lean ====
section
/-! DEFINITION. The Cargo Strip Processor: the pad (R161, R162), touches and gestures (R163 to R165), bindings and jogs
(R166 to R168). -/

namespace Sys2Proof.Machine

open Sys2Proof

/-! ### Position and gestures (R163, R164) -/

/-- An electrode's delta in the position: 0 in TUNING or FAULT (R162). -/
def Chan.stripDelta (ch : Chan) : Nat :=
  match ch.state with
  | .tuning | .fault => 0
  | _ => ch.delta

/-- The strip is touched while an electrode is in TOUCH (R163). -/
def touchedBy (es : List Chan) : Bool := es.any fun ch => ch.state = .touch

/-- The strip position, or the previous one while the deltas sum below the touch threshold (R163). -/
def stripPosition (threshold previous : Nat) (es : List Chan) : Nat :=
  let d (i : Nat) : Nat := (es[i]?.map Chan.stripDelta).getD 0
  let S := d 0 + d 1 + d 2 + d 3
  let W := d 1 + 2 * d 2 + 3 * d 3
  if threshold ≤ S then 255 * W / (3 * S) else previous

/-- The movement of a touch (R164). -/
def Touch.movement (t : Touch) : Int := (t.position : Int) - t.startPos

/-- The gesture decided at a release from TOUCHING (R164), with its zone or direction (log 30). -/
def Touch.gesture? (t : Touch) : Option (Gesture × Nat) :=
  if t.elapsed < 60 then none
  else if t.elapsed ≤ 400 ∧ t.excursion < 40 then some (.tap, t.startPos / 64)
  else if t.elapsed < 600 ∧ t.movement ≤ -40 then some (.flickFwd, 0)
  else if t.elapsed < 600 ∧ 40 ≤ t.movement then some (.flickRear, 1)
  else none

/-- A touched frame's position and moment taken into the record (R164). -/
def Touch.frame (t : Touch) (now position : Nat) : Touch :=
  { t with
    position := position
    excursion := max t.excursion (absDiff position t.startPos)
    elapsed := now - t.startTime }

/-- The first binding that matches a gesture, with its index from 1 (R166). -/
def matchBinding (l : List Binding) (g : Gesture) (zone : Nat) : Option (Binding × Nat) :=
  (l.zipIdx.find? fun p => p.1.gesture = g && (g != .tap || p.1.zone = some zone)).map fun p => (p.1, p.2 + 1)

namespace State

/-- A recognised gesture acted on (R167): an order, or a STRIP notice where the checks end without one. -/
def actOn (s : State) (g : Gesture) (zone start : Nat) : State :=
  match matchBinding s.cab.set.bindings g zone with
  | none => s
  | some (b, i) =>
    let p := s.port.parked
    let checked := match b.action with
      | .invoke n => s.cab.checkInvoke p n none (fun _ => .comfort) .cargoStrip
      | .toggle d => s.cab.checkToggle p d
      | .jog d => s.cab.checkJog p d (zone = 1)
    match checked with
    | .ok a =>
      let n := s.cab.nextNumber
      s.modCab fun c =>
        let c := c.admitOrder a
        match b.action with
        | .jog d => { c with jog := some ⟨n, d⟩ }
        | _ => c
    | .error r =>
      let info : StripInfo := ⟨g, zone, start, i, r.code, r.detail⟩
      s.modCab fun c => c.notify .strip (some (if r.code = .ok then .nothingToDo info else .refused info))

/-- The end of a touch: the record is IDLE and each electrode with re-tune due begins tuning (R164, R165). -/
def endTouch (s : State) : State :=
  { s with pad := { s.pad with
    touch := none, electrodes := s.pad.electrodes.map fun ch => if ch.retune then ch.beginTuning else ch } }

/-- A touch enters EXPIRED; a jog it began is ended (R165). -/
def expireTouch (s : State) (t : Touch) : State :=
  ({ s with pad := { s.pad with touch := some { t with phase := .expired } } }).modCab fun c =>
    if t.phase = TouchPhase.held then c.endJog else c

/-- A touch start (R163, R164); it brings the part from DOZE to AWAKE (R175). -/
def startTouch (s : State) : State :=
  let p := stripPosition s.cab.set.limits.strip.touch 0 s.pad.electrodes
  { s with pad := { s.pad with touch := some ⟨.touching, s.cab.now, p, p, 0, 0⟩ } }.leaveDoze

/-- A touched frame (R164). -/
def touchFrame (s : State) (t : Touch) : State :=
  let t := t.frame s.cab.now (stripPosition s.cab.set.limits.strip.touch t.position s.pad.electrodes)
  let s' : State := { s with pad := { s.pad with touch := some t } }
  match t.phase with
  | .expired => s
  | .held => if 4000 ≤ t.elapsed then s.expireTouch t else s'
  | .touching =>
    if 4000 ≤ t.elapsed then s.expireTouch t
    else if 600 ≤ t.elapsed ∧ 40 ≤ t.movement.natAbs then
      { s with pad := { s.pad with touch := some { t with phase := .held } } }.actOn .swipeHold
        (if t.movement < 0 then 0 else 1) t.startPos
    else s'

/-- A release (R163, R164). -/
def releaseTouch (s : State) (t : Touch) : State :=
  let t := { t with elapsed := s.cab.now - t.startTime }
  let s := s.endTouch
  match t.phase with
  | .expired => s
  | .held => s.modCab Cabin.endJog
  | .touching =>
    match t.gesture? with
    | some (g, z) => s.actOn g z t.startPos
    | none => s

/-- What an answered pad frame does once every electrode has taken it (R163, R164). -/
def judgeTouch (s : State) : State :=
  match s.pad.touch, touchedBy s.pad.electrodes with
  | none, true => s.startTouch
  | none, false => s
  | some t, true => s.touchFrame t
  | some t, false => s.releaseTouch t

/-- Every electrode takes its raw count (R162). -/
def takeElectrodes (s : State) (raws : List Nat) : State :=
  let touched := s.pad.touch.isSome
  { s with pad := { s.pad with
    unanswered := 0
    electrodes := s.pad.electrodes.zipIdx.map fun p =>
      p.1.take s.cab.set.limits s.cab.now touched touched (raws.getD p.2 0) } }

/-- The pad becomes PRESENT: every electrode begins tuning (R161), one in FAULT too whose suppression timer still runs
(R155), and the timer stands: DESIGN CHOICE, log 64. -/
def padAppears (s : State) : State :=
  ({ s with pad := { s.pad with
      present := true
      unanswered := 0
      electrodes := if s.pad.electrodes.isEmpty then List.replicate 4 (newChan .strip)
        else s.pad.electrodes.map Chan.beginTuning } }).modCab fun c => c.notify .strip (some .padPresent)

/-- An answered poll of the pad (R161). -/
def padAnswered (s : State) (raws : List Nat) : State :=
  if s.pad.present then (s.takeElectrodes raws).judgeTouch else s.padAppears

/-- The pad is lost: ABSENT, and a touch in progress ends as a release that recognises nothing (R161, R165). An electrode
with re-tune due begins tuning at this release as at every other (R163, R164): DEDUCED, log 66. -/
def padLost (s : State) : State :=
  let s := ({ s with pad := { s.pad with present := false, unanswered := 5 } }).modCab fun c =>
    c.notify .strip (some .padAbsent)
  match s.pad.touch with
  | none => s
  | some t => if t.phase = TouchPhase.held then s.endTouch.modCab Cabin.endJog else s.endTouch

/-- An unanswered poll of the pad (R161). -/
def padMissed (s : State) : State :=
  if !s.pad.present then s
  else if 4 ≤ s.pad.unanswered then s.padLost
  else { s with pad := { s.pad with unanswered := s.pad.unanswered + 1 } }

/-- A missing answer of the pad's slot (R14, R161). -/
def missPadAnswer (s : State) : State :=
  if s.awaits .pad then (s.padMissed.cascade.advance .pad).finish else s

/-- The answer of the pad's slot, and the round going on: a late, corrupt or foreign one is a missing one (R14, R161). -/
def takePadAnswer (s : State) (bs : List Byte) : State :=
  match if s.inTime then decodePad bs else none with
  | some raws => if s.awaits .pad then ((s.padAnswered raws).cascade.advance .pad).finish else s
  | none => s.missPadAnswer

/-- The fifth consecutive unanswered poll of a PRESENT pad. -/
def fifthPadMiss (s : State) : State :=
  if s.pad.present && 4 ≤ s.pad.unanswered then s.missPadAnswer else s

/-- A touch reaches 4000 ms without a release (R165). -/
def touchLimit (s : State) : State :=
  match s.pad.touch with
  | none => s
  | some t =>
    if t.phase = .expired then s
    else
      let s := s.reach (t.startTime + 4000)
      (s.expireTouch { t with elapsed := s.cab.now - t.startTime }).finish

end State

end Sys2Proof.Machine
end

