-- ==== Sys2Proof/Machine/Reports.lean ====
section
/-! DEFINITION. What the part reports: the data of lookups (R49, R100, R133, R183) and the notices (R172, section 11.2).
Where chapter 11 places no bytes, the fields stand in the order their rule lists them (log 31). -/

namespace Sys2Proof.Machine

open Sys2Proof

/-! ### Shared fields -/

/-- A four-byte field that may be absent. -/
def optLong : Option Nat → List Byte
  | some n => longOf n
  | none => [255, 255, 255, 255]

/-- A flag that may be absent. -/
def optFlag : Option Bool → Byte
  | some b => flagOf b
  | none => 255

/-- The attention order number. -/
def Attention.order? : Attention → Option Nat
  | .wait n => Option.some n
  | _ => Option.none

/-- The enabled field's code, in the order of R114's table: ENABLED, DISABLED (R181). -/
def Axis.enabledCode (a : Axis) : Nat := (!a.enabled).toNat

/-- Reference state, enabled field and drive condition in one byte (log 33). -/
def Axis.stateByte (a : Axis) : Byte := byteOf (a.ref.code + 4 * a.enabledCode + 8 * a.cond.code)

/-- The unit fields of a dock: its identity, or the BASE fields its exchange record holds (R133, section 11.2). -/
def DockRec.unit? (r : DockRec) : Option Identity := r.identity.or (r.exchange.bind (·.base))

/-- Unit kind, geometry revision, serial number, axis count and channel set; absent where none are held. -/
def unitBytes (i : Option Identity) : List Byte :=
  [optByte (i.map (·.kind.code)), optByte (i.map (·.revision))] ++ optLong (i.map (·.serial)) ++
    [optByte (i.map (·.axisCount)), optByte (i.map fun i => channelSetByte i.channels)]

/-- Dock and axis in one byte. -/
def dockAxisByte (d : Dock) (k : AxisKind) : Byte := byteOf (d.num * 16 + k.code)

/-- First failure: dock and axis, and reason; absent where there is none. -/
def failureBytes (f : Option FirstFailure) : List Byte :=
  [match f with
    | some f => dockAxisByte f.dock f.axis
    | none => 255, optByte (f.map (·.reason.code))]

/-- The first failing step of an order, whose obstruction an ORDER notice carries (section 11.2): the FAILED step of the dock and
axis that its first failure names. There is none where the order has no first failure, as when a step fails after a cancel (R97),
nor while the step that R99 names in motion has not become FAILED: DESIGN CHOICE, log 80. -/
def Order.failedStep? (o : Order) : Option Step :=
  match o.firstFailure with
  | some f => o.steps.find? fun s => s.dock = f.dock && s.axis = f.axis && s.state = .failed
  | none => none

/-- The millimetres of a SLIDE or the station of another axis at its count (R133). -/
def Axis.placeReport (a : Axis) (e : Option GeomEntry) : Nat :=
  if a.kind = .slide then millimetres a.count a.pitch
  else match e with
    | some e => a.stationAt e a.count
    | none => 0

/-! ### Lookups -/

/-- Two cells in a byte, the first in the low four bits: holder in three bits, listed marker in the fourth (R183, log 31). -/
def CellMap.nibble (m : CellMap) (x : Cell) : Nat :=
  ((m.holderOf x).map Holder.num).getD 0 + if Holder.all.any fun h => (m.listed.get h).mem x then 8 else 0

/-- Pairs of cells in bytes. -/
def pairBytes (f : Cell → Nat) : List Cell → List Byte
  | a :: b :: l => byteOf (f a + 16 * f b) :: pairBytes f l
  | [a] => [byteOf (f a)]
  | [] => []

/-- The 96 cells of a lane (R49). -/
def CellMap.laneBytes (m : CellMap) (l : Lane) : List Byte := pairBytes m.nibble (Cell.ofLane l)

/-- An obstruction record (R144). -/
def obstructionBytes (r : Option Obstruction) : List Byte :=
  [optByte (r.map (·.cause.code))] ++ optWord (r.map (·.position)) ++ [optByte (r.map (·.station))] ++
    optWord (r.bind (·.filtered)) ++ optWord (r.map (·.baseline)) ++ optWord (r.map (·.margin)) ++
    [optByte ((r.bind (·.channel)).map Channel.code), optByte (r.map (·.backOff))] ++ optWord (r.map (·.covered))

/-- A step of LOOKUP_ORDER: the fields of R77 with the time waited so far, and the obstruction record (R100, R183). Kind, class,
holds-claim and reverse-incomplete share a byte, in bits 0 to 1, 2, 3 and 4: DESIGN CHOICE, log 51. -/
def stepBytes (now : Nat) (s : Step) : List Byte :=
  let ri := (s.failure.map (·.2)).getD false
  [byteOf s.index, dockAxisByte s.dock s.axis,
    byteOf (s.kind.code + 4 * s.cls.code + 8 * s.holds.toNat + 16 * ri.toNat)] ++ wordOf s.target ++
    [byteOf s.state.code, byteOf (blockerByte s.blocker)] ++ optWord (s.waitStart.map fun t => now - t) ++
    [optByte (s.stopCause.map StopCause.code), optByte (s.failure.map fun f => f.1.code)] ++ obstructionBytes s.obstruction

/-- The order record with its first failure (R76, R100). -/
def orderBytes (o : Order) : List Byte :=
  [byteOf o.slot.num, byteOf o.origin.code, byteOf o.kind.code, optByte (o.layout.map (·.1))] ++
    optWord (o.layout.map (·.2)) ++
    [byteOf o.urgency.code, byteOf o.steps.length, byteOf o.state.code, flagOf o.cancelTaken,
      byteOf (dockSetByte o.superseded)] ++
    failureBytes o.firstFailure ++
    [optFlag (o.firstFailure.map (·.reverseIncomplete)),
      optByte ((o.failedStep?.bind (·.obstruction)).map (·.cause.code))]

/-- The parts of LOOKUP_ORDER (R183). -/
def orderParts (o : Order) : Nat := 1 + ceilDiv o.steps.length 2

/-- One part of LOOKUP_ORDER (R183). -/
def orderPart (now : Nat) (o : Order) (part : Nat) : List Byte :=
  [byteOf part, byteOf (orderParts o)] ++ wordOf o.number ++
    if part = 0 then orderBytes o else ((o.steps.drop (2 * (part - 1))).take 2).flatMap (stepBytes now)

/-- Part 0 of LOOKUP_POSTURE (R133, R183). It carries no axis kinds: DESIGN CHOICE, log 81. -/
def postureBytes (r : DockRec) (match_ : Option Nat) : List Byte :=
  [byteOf r.state.code, optByte (r.fault.map DockFault.code), byteOf r.lamp.code, byteOf r.attention.code] ++
    optWord r.attention.order? ++
    [byteOf r.occupancy.code, byteOf (switchesByte r.switches), optByte match_] ++ unitBytes r.unit? ++
    [optFlag (r.unit?.map (·.trust))] ++
    r.axes.flatMap fun a => wordOf a.count ++ wordOf (a.placeReport r.geometry) ++ [a.stateByte]

/-- The four profile parameters of an axis: automatic value, override or none, value in force (R133). -/
def profileBytes (a : Axis) (o : Option Override) : List Byte :=
  let p := a.inForce o
  let row (auto : Nat) (over_ : Option Nat) (now : Nat) : List Byte := wordOf auto ++ optWord over_ ++ wordOf now
  row a.auto.ramp (o.bind (·.ramp)) p.ramp ++ row a.auto.creep (o.bind (·.creep)) p.creep ++
    row a.auto.creepSpeed (o.bind (·.creepSpeed)) p.creepSpeed ++ row a.auto.speed (o.bind (·.speed)) p.speed

/-- The move detail of a DRIVEN axis (R133). -/
def moveBytes (a : Axis) (m : Option Move) : List Byte :=
  optWord (m.map (·.step.order)) ++ [optByte (m.map (·.step.index))] ++ optWord (m.map (·.target)) ++
    [optByte (m.map fun m => (m.segment (m.progress a)).code)] ++ optWord (m.map (·.lastSetpoint))

/-- One axis of LOOKUP_POSTURE (R133, R183). Its kind, which R133 has the lookup carry and the table of R183 names in no part,
is the first field of this part and in no part else: DESIGN CHOICE, log 81. The time since the fault is in whole milliseconds,
four bytes: DESIGN CHOICE, log 62. -/
def axisBytes (now : Nat) (a : Axis) (o : Option Override) : List Byte :=
  [byteOf a.kind.code] ++ wordOf a.overrun ++
    optLong (if a.ref = .referenceFault then a.faultTime.map fun t => now - t else none) ++
    moveBytes a a.move ++ profileBytes a o

/-- One part of LOOKUP_POSTURE (R183). -/
def Cabin.posturePart (c : Cabin) (d : Dock) (part : Nat) : List Byte :=
  let r := c.dock d
  [byteOf part, byteOf (1 + r.axes.length), byteOf d.num] ++
    if part = 0 then postureBytes r c.layouts.match_
    else match r.axes[part - 1]? with
      | some a => axisBytes c.now a (r.identity.bind fun i => c.set.override? i.kind a.kind)
      | none => []

/-- A channel record as RESEED answers it (R157); the time left in whole milliseconds, two bytes: DESIGN CHOICE, log 62. State
and fault cause take a byte each, the cause with TUNING_ERROR's error in it: DESIGN CHOICE, log 79. -/
def chanBytes (now : Nat) (ch : Chan) : List Byte :=
  [byteOf ch.state.code, optByte (ch.fault.map ChanFault.code)] ++ optWord ch.raw ++ optWord ch.filtered ++
    optWord (ch.ref16.map (· / 16)) ++ wordOf ch.delta ++ wordOf ch.comp ++ optWord (ch.suppression.map fun t => t - now)

/-! ### Notices (R172, R182) -/

/-- Subject kinds (section 11.6). -/
def Subject.kindCode : Subject → Nat
  | .posture _ => 0 | .dock _ => 1 | .order _ => 2 | .layout _ => 3 | .store _ => 4 | .reference _ _ => 5 | .strip => 6

/-- Subject indexes (section 11.2). STRIP has none: 255, as every absent one-byte field (R181). -/
def Subject.index : Subject → Nat
  | .posture d | .dock d => d.num
  | .order s => s.num
  | .layout n => n
  | .store r => r.index
  | .reference d i => d.num * 16 + i
  | .strip => 255

/-- Indication codes (section 11.6). -/
def Indication.code : Indication → Nat
  | .retired => 0 | .writeFailed => 1 | .restored => 2 | .lost => 3 | .homed => 4 | .corrected _ => 5 | .fault _ => 6
  | .padPresent => 7 | .padAbsent => 8 | .refused _ => 9 | .nothingToDo _ => 10

/-- Cause of a REFERENCE notice, in the order R118 lists them, with its error or overrun. -/
def Indication.cause : Option Indication → Option Nat × Option Nat
  | some .homed => (some 0, none)
  | some (.corrected e) => (some 1, some e)
  | some (.fault v) => (some 2, some v)
  | _ => (none, none)

/-- The content of a STRIP notice (R167). -/
def StripInfo.bytes (i : StripInfo) : List Byte :=
  [byteOf i.gesture.code, byteOf i.zone, byteOf i.start, byteOf i.binding, byteOf i.code.num] ++ optWord i.detail

/-- The back-off covered in an ORDER notice: one byte, absent where there is no obstruction; above 254 a free value (section
11.2, log 32). -/
def coveredByte : Option Nat → Byte
  | some n => if n ≤ 254 then byteOf n else Config.wideCovered n
  | none => 255

/-- The content of an ORDER notice (section 11.2): 60 bytes for an order of 20 steps, as a notice frame has. -/
def orderNotice (o : Order) : List Byte :=
  let r := o.failedStep?.bind (·.obstruction)
  wordOf o.number ++
    [byteOf o.state.code, byteOf o.kind.code, byteOf o.urgency.code, byteOf o.origin.code, optByte (o.layout.map (·.1))] ++
    optWord (o.layout.map (·.2)) ++ [byteOf o.steps.length, byteOf (dockSetByte o.superseded)] ++
    failureBytes o.firstFailure ++
    [byteOf (((o.firstFailure.map (·.reverseIncomplete)).getD false).toNat + 2 * o.cancelTaken.toNat),
      optByte (r.map (·.cause.code))] ++
    optWord (r.map (·.position)) ++ optWord (r.bind (·.filtered)) ++ [coveredByte (r.map (·.covered))] ++
    o.steps.flatMap fun s => [byteOf s.state.code, byteOf (blockerByte s.blocker)]

/-- The content of a POSTURE notice (section 11.2). -/
def postureNotice (r : DockRec) (match_ : Option Nat) : List Byte :=
  [byteOf r.state.code, byteOf r.occupancy.code, byteOf r.lamp.code, byteOf r.attention.code] ++
    optWord r.attention.order? ++ [byteOf (switchesByte r.switches), optByte match_, byteOf r.axes.length] ++
    r.axes.flatMap fun a => wordOf a.count ++ [a.stateByte]

/-- The content of a notice, from its subject's state as it stands (section 11.2). -/
def Cabin.noticeContent (c : Cabin) (n : Notice) : List Byte :=
  match n.subject with
  | .posture d => postureNotice (c.dock d) c.layouts.match_
  | .dock d =>
    let r := c.dock d
    [byteOf r.state.code, optByte (r.fault.map DockFault.code)] ++ unitBytes r.unit?
  | .order s =>
    match c.pool.recs.get s with
    | some o => orderNotice o
    | none => []
  | .layout k =>
    match n.indication, c.layouts.find? k with
    | some .retired, _ => []
    | _, some l => l.bytes
    | _, none => []
  | .store _ => []
  | .reference d i =>
    let a := (c.dock d).axes[i]?
    let (cause, v) := Indication.cause n.indication
    [optByte (a.map (·.ref.code))] ++ optWord (a.map (·.count)) ++ [optByte cause] ++ optWord v
  | .strip =>
    match n.indication with
    | some (.refused i) | some (.nothingToDo i) => i.bytes
    | _ => []

/-- A notice frame (section 11.2). -/
def Cabin.noticeFrame (c : Cabin) (restarted : Bool) (n : Notice) : CanFrame :=
  ⟨c.set.identifiers.notice,
    [byteOf n.subject.kindCode, byteOf n.subject.index, optByte (n.indication.map Indication.code), flagOf restarted] ++
      c.noticeContent n⟩

end Sys2Proof.Machine
end

