-- ==== Sys2Proof/Machine/Requests.lean ====
section
/-! DEFINITION. The taking of a request and its response (R170, R174, R180), and what several request kinds share. -/

namespace Sys2Proof.Machine

open Sys2Proof

namespace State

/-- A response built and queued (R170). -/
def respond (s : State) (b : IdentBinding) (kind : Nat) (h : ReqHdr) (a : Answer) : State :=
  { s with port := { s.port with
    queue := s.port.queue ++ [⟨b.response, kind, h.tag, a.code, a.detail, s.port.restarted, a.data⟩] } }

/-- A request is taken: AWAKE from DOZE unless it is one that stays there, sleep no longer held back, the quiet timer
restarted (R170, R175, R176). -/
def taken (s : State) (stays : Bool) : State :=
  let s := if stays then s else s.leaveDoze
  { s with port := { s.port with sleepHeld := false, quiet := none } }

/-- What becomes of a request frame (R169, R170, R180): not received in SLEEP; ignored on an unknown identifier; discarded
and counted while 8 responses wait; BUSY while a reset waits; else taken and answered by its rule. -/
def receive (s : State) (kind : Nat) (h : ReqHdr) (stays : Bool) (rule : ReqClass → State → State × Answer) : State :=
  let s := s.quietWires
  if s.port.power = .sleep then s
  else
    match s.cab.set.identifiers.binding? h.ident with
    | none => s
    | some b =>
      if 8 ≤ s.port.queue.length then { s with port := { s.port with lost := min 255 (s.port.lost + 1) } }
      else if s.port.resetting then s.respond b kind h (refuse .busy)
      else
        let p := rule b.cls (s.taken stays)
        p.1.finish.respond b kind h p.2

/-- A request of a known kind: BAD_ARGUMENT for a frame that is too short or a profile outside 0 to 4 (R170, R181), else
the rule of its kind. -/
def request (s : State) (kind : Nat) (h : ReqHdr) (rule : ReqClass → State → State × Answer) (stays : Bool := false) :
    State :=
  s.receive kind h stays fun cls s => if h.short || 4 < h.profile then (s, refuse .badArgument) else rule cls s

/-- A lookup: an answer that changes nothing. -/
def look (s : State) (kind : Nat) (h : ReqHdr) (rule : ReqClass → State → Answer) : State :=
  s.request kind h fun cls s => (s, rule cls s)

/-- An order admitted, or the answer that ends the request without one; the response carries the order number, slot, step
count, urgency and, for ARRANGE, the layout number and generation (R87). -/
def admitted (s : State) (r : Except Answer Admission) : State × Answer :=
  match r with
  | .error a => (s, a)
  | .ok a =>
    let head := (s.cab.pool.free.head?.map Slot.num).getD 0
    (s.modCab fun c => c.admitOrder a,
      okWith (wordOf s.cab.nextNumber ++ [byteOf head, byteOf a.plans.length, byteOf a.urgency.code] ++
        match a.layout with
        | some (n, g) => byteOf n :: wordOf g
        | none => []))

/-- The write-due flag of a settings record set by an accepted write (R177). -/
def due (s : State) (i : SettingsId) : State := { s with store := s.store.setDue i }

/-- Settings in force changed. -/
def modSettings (s : State) (f : Settings → Settings) : State := s.modCab fun c => { c with set := f c.set }

end State

/-! ### Table writes (R31, R33, R34) -/

/-- The Geometry Table with an entry in its place, or appended (R31). -/
def putEntry (t : List GeomEntry) (e : GeomEntry) : List GeomEntry :=
  if t.any fun x => x.kind = e.kind && x.revision = e.revision then
    t.map fun x => if x.kind = e.kind && x.revision = e.revision then e else x
  else t ++ [e]

/-- The lowest dock whose envelope or full-reach union is too large for a write of an entry (R34). -/
def Cabin.entryTooLarge? (c : Cabin) (table : List GeomEntry) (e : GeomEntry) : Option Dock :=
  Dock.all.find? fun d =>
    let pl := c.set.dockTable.get d
    (envelope table pl).tooLarge || (pl.kind = e.kind && (fullReach e pl).tooLarge) ||
      ((c.dock d).state = .enrolling && (c.dock d).placement.any fun p => p.place.kind = e.kind && (fullReach e p.place).tooLarge)

/-- The lowest dock whose envelope or full-reach union is too large for a Dock Table (R34). -/
def tableTooLarge? (table : List GeomEntry) (t : PerDock Placement) : Option Dock :=
  Dock.all.find? fun d =>
    let pl := t.get d
    (envelope table pl).tooLarge || table.any fun e => e.kind = pl.kind && (fullReach e pl).tooLarge

/-- The tables in force changed, and the envelopes computed again (R31, R33, R34). -/
def Cabin.setTables (c : Cabin) (g : List GeomEntry) (t : PerDock Placement) : Cabin :=
  { c with set := { c.set with geometry := g, dockTable := t }, envelopes := Sys2Proof.Machine.envelopes g t }

/-! ### Limits (R92, R173) -/

/-- Steps whose wait has already lasted longer than the block-wait limit in force expire (R92). -/
def Cabin.expireWaits (c : Cabin) : Cabin :=
  (c.activeOrders.flatMap fun o => o.steps.map fun s => (o.ref s)).foldl
    (fun c r =>
      match c.step? r with
      | some (o, s) =>
        if s.waitStart.any fun t => t + c.set.limits.blockWait * 1000 ≤ c.now then c.blockExpired o s else c
      | none => c) c

/-- The stream timers after a write of the notice mode (R173). -/
def Cabin.modeWritten (c : Cabin) (before : Bool) : Cabin :=
  if c.set.limits.stream = before then c
  else { c with streams := .ofFn fun d => if c.set.limits.stream && c.inMotion d then some (c.now + 100) else none }

end Sys2Proof.Machine
end

