-- ==== Sys2Proof/Machine/ExecLayouts.lean ====
section
/-! DEFINITION. The meanings of the layout requests: LOOKUP_LAYOUT to RETIRE_LAYOUT (R55 to R60, R67). -/

namespace Sys2Proof.Machine

open Sys2Proof

/-- LOOKUP_LAYOUT (R55). -/
def execLookupLayout (h : ReqHdr) (number : Nat) (s : State) : Host.Outcome State Fault Refusal :=
  .next <| s.look 0 h fun _ s =>
    if number < 1 || 24 < number then refuse .badArgument
    else match s.cab.layouts.find? number with
      | some l => okWith l.bytes
      | none => refuse .notFound

/-- LOOKUP_LABEL (R56). -/
def execLookupLabel (h : ReqHdr) (label : List Nat) (s : State) : Host.Outcome State Fault Refusal :=
  .next <| s.look 1 h fun _ s =>
    if !labelOk label then refuse .badArgument
    else match s.cab.layouts.live.find? fun l => l.label = label with
      | some l => okWith l.bytes
      | none => refuse .notFound

/-- The numbers an owner filter lists (R57); a filter value that R57 does not list has none. -/
def listed? (t : LayoutTable) (profile : Nat) (f : OwnerFilter) : Option (List Nat) :=
  let pick (p : LayoutRec → Bool) : List Nat := (t.live.filter p).map (·.number)
  match f with
  | .all => some (pick fun _ => true)
  | .shared => some (pick fun l => l.owner = 0)
  | .profile n => if 1 ≤ n ∧ n ≤ 4 then some (pick fun l => 7 ≤ l.number && l.owner = n) else none
  | .visible => some (pick fun l => l.owner = 0 || l.owner = profile)
  | .unknown _ => none

/-- LIST_LAYOUTS (R57). -/
def execListLayouts (h : ReqHdr) (filter : OwnerFilter) (s : State) : Host.Outcome State Fault Refusal :=
  .next <| s.look 2 h fun _ s =>
    match listed? s.cab.layouts h.profile filter with
    | some l => okWith (l.map byteOf)
    | none => refuse .badArgument

/-- LOOKUP_MATCH (R67): the layout record of the match, or 255 for none. -/
def execLookupMatch (h : ReqHdr) (s : State) : Host.Outcome State Fault Refusal :=
  .next <| s.look 3 h fun _ s =>
    match s.cab.layouts.match_.bind s.cab.layouts.find? with
    | some l => okWith l.bytes
    | none => okWith [255]

/-- The checks of R58: the number to be written and the contents, or the refusal of the first check that fails. -/
def checkWrite (c : Cabin) (cls : ReqClass) (profile number : Nat) (raw : RawContents) : Except Answer (Nat × Contents) :=
  if !mayWriteLayouts cls then .error (refuse .refusedAccess)
  else if 24 < number then .error (refuseWith .badArgument 2)
  else
    match contentsOf? raw with
    | none => .error (refuseWith .badArgument 3)
    | some k =>
      let factory : Bool := 1 ≤ number && number ≤ 6
      let liveOwnerOk := match c.layouts.find? number with
        | some l => Cabin.ownerOk cls profile l.owner
        | none => true
      if factory && cls != .service then .error (refuse .refusedAccess)
      else if factory && k.owner != 0 then .error (refuseWith .badArgument 5)
      else if !liveOwnerOk || !Cabin.ownerOk cls profile k.owner then .error (refuse .refusedAccess)
      else
        match c.selectNumber number with
        | none => .error (refuse .tableFull)
        | some n =>
          match c.layouts.live.find? fun l => l.label = k.label && l.number != n with
          | some l => .error (refuseWith .duplicateLabel l.number)
          | none => .ok (n, k)

/-- WRITE_LAYOUT (R58, R59). -/
def execWriteLayout (h : ReqHdr) (number : Nat) (contents : RawContents) (s : State) :
    Host.Outcome State Fault Refusal :=
  .next <| s.request 4 h fun cls s =>
    match checkWrite s.cab cls h.profile number contents with
    | .error a => (s, a)
    | .ok (n, k) =>
      let s := s.modCab fun c => c.writeLayout n k
      (s, match s.cab.layouts.find? n with
        | some l => okWith ([byteOf n] ++ wordOf l.generation ++
            [byteOf l.store.code, byteOf l.validation.code, byteOf l.validation.pair])
        | none => okWith [])

/-- The checks of R60: none when the retire is taken. -/
def checkRetire (c : Cabin) (cls : ReqClass) (profile number : Nat) : Option Answer :=
  if !mayWriteLayouts cls then some (refuse .refusedAccess)
  else if number < 1 || 24 < number then some (refuse .badArgument)
  else if number < 7 then some (refuse .protected_)
  else
    match c.layouts.find? number with
    | none => some (refuse .notFound)
    | some l => if Cabin.ownerOk cls profile l.owner then none else some (refuse .refusedAccess)

/-- RETIRE_LAYOUT (R60). -/
def execRetireLayout (h : ReqHdr) (number : Nat) (s : State) : Host.Outcome State Fault Refusal :=
  .next <| s.request 5 h fun cls s =>
    match checkRetire s.cab cls h.profile number with
    | some a => (s, a)
    | none => (s.modCab fun c => c.retireLayout number, okWith [])

end Sys2Proof.Machine
end

