-- ==== Sys2Proof/Machine/ExecOrders.lean ====
section
/-! DEFINITION. The meanings of the order requests (R78, R83, R84, R97, R100) and of the timers of orders (R92, R99). -/

namespace Sys2Proof.Machine

open Sys2Proof

/-- INVOKE_LAYOUT (R78). -/
def execInvokeLayout (h : ReqHdr) (number : Nat) (generation urgency : Option Nat) (s : State) :
    Host.Outcome State Fault Refusal :=
  .next <| s.request 6 h fun cls s =>
    if !mayInvoke cls then (s, refuse .refusedAccess)
    else
      match urgencyArg urgency with
      | none => (s, refuse .badArgument)
      | some u =>
        if number < 1 || 24 < number || !generationOk generation then (s, refuse .badArgument)
        else s.admitted (s.cab.checkInvoke s.port.parked number generation
          (fun l => urgencyTaken cls (u.getD l.urgency)) (.cls cls))

/-- MOVE_AXIS (R83). -/
def execMoveAxis (h : ReqHdr) (dock axis target : Nat) (urgency : Option Nat) (s : State) :
    Host.Outcome State Fault Refusal :=
  .next <| s.request 7 h fun cls s =>
    if !mayInvoke cls then (s, refuse .refusedAccess)
    else
      match dockAxisArg dock axis, urgencyArg urgency with
      | some (d, k), some u =>
        s.admitted (s.cab.checkMove s.port.parked d k target (urgencyTaken cls (u.getD .comfort)) (.cls cls))
      | _, _ => (s, refuse .badArgument)

/-- HOMING (R84); no axis stands for ALL. -/
def execHoming (h : ReqHdr) (dock : Nat) (axis : Option Nat) (s : State) : Host.Outcome State Fault Refusal :=
  .next <| s.request 8 h fun cls s =>
    if !mayInvoke cls then (s, refuse .refusedAccess)
    else
      let kind : Option (Option AxisKind) := match axis with
        | none => some none
        | some a => (AxisKind.ofCode? a).map some
      match Dock.ofNum? dock, kind with
      | some d, some k => s.admitted (s.cab.checkHoming s.port.parked d k (.cls cls))
      | _, _ => (s, refuse .badArgument)

/-- CANCEL_ORDER (R97). -/
def execCancelOrder (h : ReqHdr) (number : Nat) (s : State) : Host.Outcome State Fault Refusal :=
  .next <| s.request 9 h fun _ s =>
    if number < 1 || 65535 < number then (s, refuse .badArgument)
    else
      match s.cab.orderOf? number with
      | none => (s, refuse .notFound)
      | some o => if o.cancelTaken then (s, nothingToDo) else (s.modCab fun c => c.cancelOrder o.slot, okWith [])

/-- CANCEL_ALL (R97). -/
def execCancelAll (h : ReqHdr) (s : State) : Host.Outcome State Fault Refusal :=
  .next <| s.request 10 h fun _ s =>
    let l := (s.cab.activeOrders.filter fun o => !o.cancelTaken).map (·.slot)
    (s.modCab fun c => l.foldl Cabin.cancelOrder c, { code := .ok, detail := some l.length })

/-- LOOKUP_ORDER (R100, R183). -/
def execLookupOrder (h : ReqHdr) (number : Nat) (part : Option Nat) (s : State) : Host.Outcome State Fault Refusal :=
  .next <| s.look 11 h fun _ s =>
    if number < 1 || 65535 < number then refuse .badArgument
    else
      match s.cab.orderOf? number with
      | none => refuse .notFound
      | some o =>
        if orderParts o ≤ partArg part then refuseWith .badArgument (orderParts o)
        else okWith (orderPart s.cab.now o (partArg part))

/-- BLOCK_WAIT_EXPIRY of the step of an index in the order of a slot (R92). -/
def execBlockWaitExpiry (slot : Slot) (index : Nat) (s : State) : Host.Outcome State Fault Refusal :=
  .next <|
    let s := s.quietWires
    match s.cab.activeOrders.find? fun o => o.slot = slot with
    | none => s
    | some o =>
      match o.steps.find? fun x => x.index = index with
      | none => s
      | some x =>
        s.expire (x.waitStart.map fun t => t + s.cab.set.limits.blockWait * 1000) fun s =>
          s.modCab fun c => c.blockExpired o x

/-- PAUSE_GRACE_EXPIRY (R99). -/
def execPauseGraceExpiry (s : State) : Host.Outcome State Fault Refusal :=
  .next <| s.quietWires.expire s.cab.pool.grace fun s => s.modCab Cabin.graceExpired

/-- START_WINDOW_EXPIRY: a step still in STARTING fails with NO_MOTION (R110). -/
def execStartWindowExpiry (d : Dock) (s : State) : Host.Outcome State Fault Refusal :=
  .next <| s.quietWires.expire (s.cab.arb.window.get d) fun s => s.modCab fun c =>
    match c.movingStep? d with
    | some (_, x) => if x.state = .starting then c.failMove d .noMotion else c.stopWindow d
    | none => c.stopWindow d

/-- GRANT_WAIT_EXPIRY: the step fails with NO_POWER (R112). -/
def execGrantWaitExpiry (d : Dock) (s : State) : Host.Outcome State Fault Refusal :=
  .next <|
    match s.cab.arb.requests.get d with
    | none => s.quietWires
    | some q => s.quietWires.expire (some q.wait) fun s => s.modCab fun c => c.failStep q.step .noPower

/-- STALL_TIMER_EXPIRY (R127, R138, R140). -/
def execStallTimerExpiry (d : Dock) (s : State) : Host.Outcome State Fault Refusal :=
  .next <| s.quietWires.expire ((s.cab.driven? d).bind fun p => p.2.stall) fun s => s.modCab fun c => c.stalled d

/-- REFERENCE_SUPPRESSION_EXPIRY: the Order Pool is told (R118). -/
def execReferenceSuppressionExpiry (d : Dock) (axis : AxisKind) (s : State) : Host.Outcome State Fault Refusal :=
  .next <| s.quietWires.expire ((s.cab.axis? d axis).bind (·.suppression)) fun s => s.modCab fun c =>
    (c.modAxis d axis fun a => { a with suppression := none }).spawn [.retryClaims]

end Sys2Proof.Machine
end

