-- ==== Sys2Proof/Machine/ExecRoster.lean ====
section
/-! DEFINITION. The meanings of the dock requests (R23, R49, R133, R146, R157), of latch and dock timer events (R2 to R11),
and of the Seat Link's answers (R6, R7, R13 to R20, R161). -/

namespace Sys2Proof.Machine

open Sys2Proof

/-! ### Requests -/

/-- LOOKUP_POSTURE (R133, R183). -/
def execLookupPosture (h : ReqHdr) (dock : Nat) (part : Option Nat) (s : State) : Host.Outcome State Fault Refusal :=
  .next <| s.look 12 h fun _ s =>
    match Dock.ofNum? dock with
    | none => refuse .badArgument
    | some d =>
      let n := 1 + (s.cab.dock d).axes.length
      if n ≤ partArg part then refuseWith .badArgument n else okWith (s.cab.posturePart d (partArg part))

/-- QUERY_CELLS (R49). -/
def execQueryCells (h : ReqHdr) (lane : Nat) (s : State) : Host.Outcome State Fault Refusal :=
  .next <| s.look 13 h fun _ s =>
    match Lane.ofNum? lane with
    | some l => okWith (s.cab.map.laneBytes l)
    | none => refuse .badArgument

/-- RE_ENROLL (R23). -/
def execReEnroll (h : ReqHdr) (dock : Nat) (s : State) : Host.Outcome State Fault Refusal :=
  .next <| s.request 14 h fun cls s =>
    if !mayReEnroll cls then (s, refuse .refusedAccess)
    else
      match Dock.ofNum? dock with
      | none => (s, refuse .badArgument)
      | some d =>
        match (s.cab.dock d).state with
        | .faulted => ((s.modCab fun c => c.enterEnrolling d).dropSlot d, okWith [])
        | .ready | .silent => (s, nothingToDo)
        | .seating | .enrolling | .vacating => (s, refuse .busy)
        | .empty => (s, refuse .notFound)

/-- A reseed that has passed its checks (R157). -/
def Cabin.reseedChan (c : Cabin) (d : Dock) (ch : Channel) : Cabin :=
  let hold := c.inMotion d
  c.modChan d ch fun x =>
    let x := x.reseed
    if c.set.limits.inBand x.reference then x else if hold then { x with retune := true } else x.beginTuning

/-- RESEED (R157): taken in DOZE without bringing the part to AWAKE. -/
def execReseed (h : ReqHdr) (dock channel : Nat) (s : State) : Host.Outcome State Fault Refusal :=
  .next <| s.request 21 h (stays := true) fun cls s =>
    if cls != .service then (s, refuse .refusedAccess)
    else
      match Dock.ofNum? dock, Channel.ofCode? channel with
      | some d, some ch =>
        if !s.cab.ready d then (s, refuse .dockNotReady)
        else
          match (s.cab.dock d).chan? ch with
          | none => (s, refuse .badArgument)
          | some x =>
            if x.state.tracking then
              let s := (s.modCab fun c => c.reseedChan d ch).cascade
              (s, okWith ((((s.cab.dock d).chan? ch).map (chanBytes s.cab.now)).getD []))
            else (s, { code := .busy, data := chanBytes s.cab.now x })
      | _, _ => (s, refuse .badArgument)

/-- RESEED_BASELINE (R146): taken in DOZE without bringing the part to AWAKE. -/
def execReseedBaseline (h : ReqHdr) (dock axis : Nat) (s : State) : Host.Outcome State Fault Refusal :=
  .next <| s.request 22 h (stays := true) fun cls s =>
    if cls != .service then (s, refuse .refusedAccess)
    else
      match dockAxisArg dock axis with
      | none => (s, refuse .badArgument)
      | some (d, k) =>
        if !s.cab.ready d then (s, refuse .dockNotReady)
        else
          match s.cab.axis? d k with
          | none => (s, refuse .badArgument)
          | some a => (s.modCab fun c => c.modAxis d k fun a => { a with reseed := true }, okWith (a.baselines.flatMap wordOf))

/-! ### Latches (R2, R176) -/

namespace State

/-- A latch line as it now reads. -/
def setLatch (s : State) (d : Dock) (line : LatchLine) (closed : Bool) : State :=
  match line with
  | .a => { s with latchA := s.latchA.set d closed }
  | .b => { s with latchB := s.latchB.set d closed }

def latch (s : State) (d : Dock) : LatchLine → Bool
  | .a => s.latchA.get d
  | .b => s.latchB.get d

/-- Both latches of a dock read closed. -/
def locked (s : State) (d : Dock) : Bool := s.latchA.get d && s.latchB.get d

/-- A latch line changes: it wakes the part, and a latch closed or latch open event is taken by the dock (R2, R175, R176). -/
def latchChange (s : State) (d : Dock) (line : LatchLine) (closed : Bool) : State :=
  let s := s.quietWires
  if s.latch d line = closed then s
  else
    let s := (s.setLatch d line closed).leaveSleep
    if !closed then ((s.leaveDoze.modCab fun c => c.latchOpened d).finish).resume s.held
    else if s.locked d then (s.leaveDoze.modCab fun c => c.latchClosed d).finish
    else s.finish

end State

/-- LATCH_CLOSED: both lines of the dock read closed. -/
def execLatchClosed (d : Dock) (s : State) : Host.Outcome State Fault Refusal :=
  .next <|
    let s := s.quietWires
    if s.locked d then s
    else (((((s.setLatch d .a true).setLatch d .b true).wake).modCab fun c => c.latchClosed d)).finish

/-- LATCH_OPEN: a closed line of the dock opens. -/
def execLatchOpen (d : Dock) (line : LatchLine) (s : State) : Host.Outcome State Fault Refusal :=
  .next <| s.latchChange d line false

/-- LATCH_WAKE: a latch line changes; in SLEEP any change wakes the part. -/
def execLatchWake (d : Dock) (line : LatchLine) (closed : Bool) (s : State) : Host.Outcome State Fault Refusal :=
  .next <| s.latchChange d line closed

/-! ### Dock timers -/

/-- SETTLE_EXPIRY (R4, R5). -/
def execSettleExpiry (d : Dock) (s : State) : Host.Outcome State Fault Refusal :=
  .next <| s.quietWires.expire (s.cab.dock d).settle fun s => s.modCab fun c => c.settled d

/-- POWER_UP_DELAY_EXPIRY (R5, R24). -/
def execPowerUpDelayExpiry (d : Dock) (s : State) : Host.Outcome State Fault Refusal :=
  .next <| s.quietWires.expire (s.cab.dock d).powerUp fun s => s.modCab fun c =>
    c.modDock d Cabin.poweredRecord

/-- PAGE_LIMIT_EXPIRY (R16, R19). -/
def execPageLimitExpiry (d : Dock) (s : State) : Host.Outcome State Fault Refusal := .next <| s.quietWires.pageExpired d

/-- SILENCE_EXPIRY (R7, R9). -/
def execSilenceExpiry (d : Dock) (s : State) : Host.Outcome State Fault Refusal :=
  .next <| s.quietWires.expire (s.cab.dock d).silence fun s => s.modCab fun c => c.silenceExpired d

/-- HOLD_EXPIRY (R11). -/
def execHoldExpiry (d : Dock) (s : State) : Host.Outcome State Fault Refusal :=
  .next <| s.quietWires.expire (s.cab.dock d).hold fun s => s.modCab fun c => c.enterEmpty d

/-- PRESENCE_SUPPRESSION_EXPIRY of a seat channel or a strip electrode (R153, R155, R162). A channel of a dock that is not READY
begins tuning too: DESIGN CHOICE, log 73; so does an electrode while the pad is ABSENT (R161): DESIGN CHOICE, log 85. -/
def execPresenceSuppressionExpiry (ch : ChanRef) (s : State) : Host.Outcome State Fault Refusal :=
  .next <|
    match ch with
    | .seat d k =>
      s.quietWires.expire (((s.cab.dock d).chan? k).bind (·.suppression)) fun s => s.modCab fun c =>
        c.modChan d k Chan.unsuppress
    | .strip e =>
      s.quietWires.expire ((s.pad.electrodes[e.val]?).bind (·.suppression)) fun s =>
        { s with pad := { s.pad with electrodes := s.pad.electrodes.modify e.val Chan.unsuppress } }

/-! ### The Seat Link -/

/-- POLL_ROUND: a poll period boundary (R13). -/
def execPollRound (s : State) : Host.Outcome State Fault Refusal := .next <| s.quietWires.boundary.finish

/-- DOCK_POLL_ANSWERED (R14, R15, R125). -/
def execDockPollAnswered (d : Dock) (bytes : List Byte) (s : State) : Host.Outcome State Fault Refusal :=
  .next <| s.quietWires.takeDockAnswer d bytes

/-- DOCK_POLL_UNANSWERED (R6, R14). -/
def execDockPollUnanswered (d : Dock) (s : State) : Host.Outcome State Fault Refusal := .next <| s.quietWires.missDockAnswer d

/-- FIFTH_UNANSWERED_POLL (R6). -/
def execFifthUnansweredPoll (d : Dock) (s : State) : Host.Outcome State Fault Refusal := .next <| s.quietWires.fifthMiss d

/-- NODE_PAGE (R16, R17). -/
def execNodePage (d : Dock) (bytes : List Byte) (s : State) : Host.Outcome State Fault Refusal :=
  .next <| s.quietWires.takeNodePage d bytes

/-- PAD_POLL_ANSWERED (R161). -/
def execPadPollAnswered (bytes : List Byte) (s : State) : Host.Outcome State Fault Refusal :=
  .next <| s.quietWires.takePadAnswer bytes

/-- PAD_POLL_UNANSWERED (R161). -/
def execPadPollUnanswered (s : State) : Host.Outcome State Fault Refusal := .next s.quietWires.missPadAnswer

/-- PAD_ABSENT: the fifth consecutive unanswered poll of the pad (R161). -/
def execPadAbsent (s : State) : Host.Outcome State Fault Refusal := .next s.quietWires.fifthPadMiss

/-- TOUCH_EXPIRY (R165). -/
def execTouchExpiry (s : State) : Host.Outcome State Fault Refusal := .next s.quietWires.touchLimit

end Sys2Proof.Machine
end

