-- ==== Sys2Proof/Machine/ExecSettings.lean ====
section
/-! DEFINITION. The meanings of the settings requests (R31, R33, R102, R120, R166, R178) and of the store's writes (R70,
R177). -/

namespace Sys2Proof.Machine

open Sys2Proof

/-- WRITE_GEOMETRY (R31, R34): contents, or their absence for a removal. -/
def execWriteGeometry (h : ReqHdr) (kind revision : Nat) (contents : Option RawGeometry) (s : State) :
    Host.Outcome State Fault Refusal :=
  .next <| s.request 15 h fun cls s =>
    if cls != .service then (s, refuse .refusedAccess)
    else
      match UnitKind.ofCode? kind with
      | none => (s, refuse .badArgument)
      | some k =>
        if 15 < revision then (s, refuse .badArgument)
        else
          let table := s.cab.set.geometry
          let live := table.any fun e => e.kind = k && e.revision = revision
          let busy := s.store.geometryBusy || s.store.dockTableBusy
          let accept (t : List GeomEntry) : State × Answer :=
            let s := (s.modCab fun c => c.setTables t c.set.dockTable).due .geometry
            ({ s with store := { s.store with geometryBusy := true } }, okWith [])
          match contents with
          | none =>
            if !live then (s, refuse .notFound)
            else if busy then (s, refuse .busy)
            else accept (table.filter fun e => !(e.kind = k && e.revision = revision))
          | some g =>
            match rawEntry? g k revision with
            | none => (s, refuse .badArgument)
            | some e =>
              if !live && 8 ≤ table.length then (s, refuse .tableFull)
              else if busy then (s, refuse .busy)
              else
                match s.cab.entryTooLarge? (putEntry table e) e with
                | some d => (s, refuseWith .badArgument d.num)
                | none => accept (putEntry table e)

/-- WRITE_DOCK_TABLE (R33, R34). -/
def execWriteDockTable (h : ReqHdr) (placements : List RawPlacement) (s : State) : Host.Outcome State Fault Refusal :=
  .next <| s.request 16 h fun cls s =>
    if cls != .service then (s, refuse .refusedAccess)
    else
      match dockTableOf? placements with
      | none => (s, refuse .badArgument)
      | some t =>
        if s.store.geometryBusy || s.store.dockTableBusy then (s, refuse .busy)
        else
          match tableTooLarge? s.cab.set.geometry t with
          | some d => (s, refuseWith .badArgument d.num)
          | none =>
            let s := (s.modCab fun c => c.setTables c.set.geometry t).due .dockTable
            ({ s with store := { s.store with dockTableBusy := true } }, okWith [])

/-- SET_OVERRIDE (R120); no value stands for CLEAR. -/
def execSetOverride (h : ReqHdr) (kind axis param : Nat) (value : Option Nat) (s : State) :
    Host.Outcome State Fault Refusal :=
  .next <| s.request 17 h fun cls s =>
    if cls != .service then (s, refuse .refusedAccess)
    else
      match UnitKind.ofCode? kind, AxisKind.ofCode? axis, Param.ofCode? param with
      | some u, some k, some p =>
        if u.axes.contains k then
          let v := value.map p.clamp
          let s := s.modSettings fun set =>
            { set with overrides := set.overrides.map fun o => if o.unit = u && o.axis = k then o.put p v else o }
          (s.due .overrides, okWith (optWord v))
        else (s, refuse .badArgument)
      | _, _, _ => (s, refuse .badArgument)

/-- SET_BUDGET (R102, R104): the response carries B, E and the sum held once the whole of the recomputation is made, the
pass after a withdrawal with it: DEDUCED, log 59. -/
def execSetBudget (h : ReqHdr) (limit : Nat) (s : State) : Host.Outcome State Fault Refusal :=
  .next <| s.request 18 h fun cls s =>
    if cls != .service then (s, refuse .refusedAccess)
    else
      let B := clampTo 80 400 limit
      let s := s.modSettings fun set => { set with budget := B }
      let s := (s.modCab fun c => c.changeBudget (effectiveBudget B s.port.voltageInForce)).cascade
      (s.due .budget, okWith (wordOf B ++ wordOf s.cab.arb.budget ++ wordOf s.cab.arb.held))

/-- SET_LIMITS (R92, R169, R173, R178). -/
def execSetLimits (h : ReqHdr) (w : LimitWrite) (s : State) : Host.Outcome State Fault Refusal :=
  .next <| s.request 19 h fun cls s =>
    if cls != .service then (s, refuse .refusedAccess)
    else
      match w with
      | .identifier place b =>
        match s.cab.set.identifiers.write? place b with
        | none => (s, refuse .badArgument)
        | some r =>
          ((s.modSettings fun set => { set with identifiers := r }).due .identifiers,
            okWith (match b with
              | some b => wordOf b.request ++ wordOf b.response ++ [byteOf b.cls]
              | none => [255, 255, 255, 255, 255]))
      | w =>
        match applyLimit? w s.cab.set.limits with
        | none => (s, refuse .badArgument)
        | some (l, v) =>
          let before := s.cab.set.limits.stream
          let s := s.modSettings fun set => { set with limits := l }
          ((s.modCab fun c => (c.modeWritten before).expireWaits).due .limits, okWith (wordOf v))

/-- WRITE_BINDINGS (R166). -/
def execWriteBindings (h : ReqHdr) (bindings : List RawBinding) (s : State) : Host.Outcome State Fault Refusal :=
  .next <| s.request 20 h fun cls s =>
    if cls != .service then (s, refuse .refusedAccess)
    else
      match bindingsOf bindings with
      | .error i => (s, refuseWith .badArgument i)
      | .ok l => ((s.modSettings fun set => { set with bindings := l }).due .bindings, okWith [byteOf l.length])

/-- LAYOUT_WRITE_BEGIN (R70, R177). -/
def execLayoutWriteBegin (s : State) : Host.Outcome State Fault Refusal := .next s.quietWires.beginLayoutWrite

/-- LAYOUT_WRITE_COMPLETE with the outcome of the read-back (R70). -/
def execLayoutWriteComplete (readBack : Bool) (s : State) : Host.Outcome State Fault Refusal :=
  .next <| s.quietWires.endLayoutWrite readBack

/-- SETTINGS_WRITE_BEGIN (R177). -/
def execSettingsWriteBegin (s : State) : Host.Outcome State Fault Refusal := .next s.quietWires.beginSettingsWrite

/-- SETTINGS_WRITE_COMPLETE with the outcome of the read-back (R177). -/
def execSettingsWriteComplete (readBack : Bool) (s : State) : Host.Outcome State Fault Refusal :=
  .next <| s.quietWires.endSettingsWrite readBack

end Sys2Proof.Machine
end

