-- ==== Sys2Proof/Machine/ExecPort.lean ====
section
/-! DEFINITION. The meanings of the resets (R179, R180), of frames in and out (R47, R48, R170 to R176), and of the Port's
timers. -/

namespace Sys2Proof.Machine

open Sys2Proof

/-! ### Resets -/

/-- POWER_ON, with the records whose stored copy fails its check at this loading (R179). -/
def execPowerOn (failing : List RecId) (s : State) : Host.Outcome State Fault Refusal := .next <| s.boot failing

/-- SOFT_RESET: taken from SERVICE, the queued responses are sent and the reset waits for the store (R180). -/
def execSoftReset (h : ReqHdr) (s : State) : Host.Outcome State Fault Refusal :=
  .next <|
    let t := s.request 23 h fun cls s =>
      if cls != .service then (s, refuse .refusedAccess)
      else ({ s with port := { s.port with resetting := true } }, okWith [])
    if t.port.resetting && !s.port.resetting then t.sendQueue else t

/-- SOFT_RESET_COMPLETION: the reset that waits is made once no write is in progress (R180). -/
def execSoftResetCompletion (failing : List RecId) (s : State) : Host.Outcome State Fault Refusal :=
  .next <| if s.port.resetting && s.store.writing.isNone then s.boot failing else s.quietWires

/-- ACK_RESTART (R174). -/
def execAckRestart (h : ReqHdr) (s : State) : Host.Outcome State Fault Refusal :=
  .next <| s.request 24 h fun cls s =>
    if cls != .body then (s, refuse .refusedAccess)
    else if s.port.restarted then ({ s with port := { s.port with restarted := false } }, okWith [])
    else (s, nothingToDo)

/-- BAD_REQUEST: a request of an unknown kind (R170 step 2). -/
def execBadRequest (h : ReqHdr) (kind : Nat) (s : State) : Host.Outcome State Fault Refusal :=
  .next <| s.receive kind h false fun _ s => (s, refuse .badRequest)

/-- REQUEST_DISCARDED: a request that meets a full response queue is discarded and counted (R170). -/
def execRequestDiscarded (h : ReqHdr) (s : State) : Host.Outcome State Fault Refusal :=
  .next <|
    let s := s.quietWires
    if s.port.power != .sleep && (s.cab.set.identifiers.binding? h.ident).isSome && 8 ≤ s.port.queue.length then
      { s with port := { s.port with lost := min 255 (s.port.lost + 1) } }
    else s

/-! ### Frames sent -/

/-- RESPONSE_SEND: the first response of the queue is sent, with the lost-request count (R170). -/
def execResponseSend (s : State) : Host.Outcome State Fault Refusal :=
  .next <|
    let s := s.quietWires
    match s.port.queue with
    | [] => s
    | r :: l => { s with port := { s.port with queue := l, lost := 0, tx := [r.frame s.port.lost] } }

/-- NOTICE_SEND: with no response waiting the oldest notice is built and sent (R172). -/
def execNoticeSend (s : State) : Host.Outcome State Fault Refusal :=
  .next <|
    let s := s.quietWires
    match s.cab.notices with
    | [] => s
    | n :: l =>
      if s.port.power = .sleep || !s.port.queue.isEmpty then s
      else
        { s with
          port := { s.port with tx := [s.cab.noticeFrame s.port.restarted n] }
          cab := { s.cab with notices := l } }

/-! ### Frames taken in -/

namespace State

/-- The vehicle state told on: E recomputed, then PARKED decided afresh (R103, R104, R171). -/
def vehicleTold (s : State) : State :=
  let p := s.port.isParked
  let t : List Task := if p = s.port.parked then [] else if p then [.parkedBack] else [.parkedLost]
  let e := effectiveBudget s.cab.set.budget s.port.voltageInForce
  { s with port := { s.port with parked := p }, cab := s.cab.spawn (.budget e :: t) }

end State

/-- VEHICLE_STATE_FRAME: taken when every field lies within its range (R171, R181). -/
def execVehicleStateFrame (bytes : List Byte) (s : State) : Host.Outcome State Fault Refusal :=
  .next <|
    let s := s.quietWires
    match Gear.ofCode? (byteAt bytes 2) with
    | none => s
    | some g =>
      if s.port.power = .sleep || bytes.length < 4 || 3000 < wordAt bytes 0 || 250 < byteAt bytes 3 then s
      else
        ({ s with port := { s.port with
          speed := wordAt bytes 0
          gear := g
          voltage := byteAt bytes 3
          fresh := some (s.cab.now + 500) } }).vehicleTold.finish

/-- VEHICLE_STATE_STALE: the freshness timer expires (R171). -/
def execVehicleStateStale (s : State) : Host.Outcome State Fault Refusal :=
  .next <| s.quietWires.expire s.port.fresh fun s => ({ s with port := { s.port with fresh := none } }).vehicleTold

/-- INTRUSION_FRAME (R47, R48, R181). -/
def execIntrusionFrame (bytes : List Byte) (s : State) : Host.Outcome State Fault Refusal :=
  .next <|
    let s := s.quietWires
    if s.port.power = .sleep || bytes.length < 2 then s
    else
      (({ s with intrusion := some (s.cab.now + 1000) }).modCab fun c =>
        c.placeFront (frontSet .left (byteAt bytes 0)) (frontSet .right (byteAt bytes 1))).finish

/-- INTRUSION_STALE: columns 0 to 2 of both lanes are placed (R48). -/
def execIntrusionStale (s : State) : Host.Outcome State Fault Refusal :=
  .next <| s.quietWires.expire s.intrusion fun s =>
    ({ s with intrusion := none }).modCab fun c => c.placeFront (frontSet .left 250) (frontSet .right 250)

/-- NETWORK_SLEEP_FRAME: SLEEP, or held back until its condition holds (R176). -/
def execNetworkSleepFrame (s : State) : Host.Outcome State Fault Refusal :=
  .next <|
    let s := s.quietWires
    if s.port.power = .sleep then s
    else if s.sleepHolds then s.enterSleep
    else { s with port := { s.port with sleepHeld := true } }

/-- CAN_WAKE: SLEEP is left; the frame that woke the part is not taken (R176). -/
def execCanWake (s : State) : Host.Outcome State Fault Refusal := .next <| s.quietWires.leaveSleep.finish

/-- PAD_WAKE: the pad wake line (R161, R176). -/
def execPadWake (s : State) : Host.Outcome State Fault Refusal :=
  .next <|
    let s := s.quietWires
    (s.leaveSleep).closing

/-! ### Timers of the Port -/

/-- QUIET_TIMER_EXPIRY: DOZE is entered (R175). -/
def execQuietTimerExpiry (s : State) : Host.Outcome State Fault Refusal :=
  .next <| s.quietWires.expire s.port.quiet State.enterDoze

/-- STREAM_TIMER_EXPIRY of a dock (R173). -/
def execStreamTimerExpiry (d : Dock) (s : State) : Host.Outcome State Fault Refusal :=
  .next <| s.quietWires.expire (s.cab.streams.get d) fun s => s.modCab fun c =>
    { c.notify (.posture d) with streams := c.streams.set d (if c.inMotion d then some (c.now + 100) else none) }

end Sys2Proof.Machine
end

