-- ==== Sys2Proof/Machine/Clock.lean ====
section
/-! DEFINITION. One millisecond of the model's clock: the commands that fall due by themselves and the order in which they
join the queue (00_scope.md, Time; log 6). -/

namespace Sys2Proof.Machine

open Sys2Proof

/-- A command whose timer has come to its moment. -/
def whenDue (now : Nat) (t : Timer) (i : Instr) : List Instr := if t.any fun t => t ≤ now then [i] else []

/-- The axis timers of a dock (R118). -/
def DockRec.axisDue (r : DockRec) (d : Dock) (now : Nat) : List Instr :=
  r.axes.flatMap fun a => whenDue now a.suppression (.referenceSuppressionExpiry d a.kind)

/-- The channel timers of a dock (R155). -/
def DockRec.chanDue (r : DockRec) (d : Dock) (now : Nat) : List Instr :=
  r.chans.flatMap fun x => match x.kind.seat? with
    | some ch => whenDue now x.suppression (.presenceSuppressionExpiry (.seat d ch))
    | none => []

namespace Cabin

/-- The timers of a dock that have come to their moments. -/
def dockDue (c : Cabin) (d : Dock) : List Instr :=
  let r := c.dock d
  whenDue c.now r.settle (.settleExpiry d) ++ whenDue c.now r.powerUp (.powerUpDelayExpiry d) ++
    whenDue c.now r.pageLimit (.pageLimitExpiry d) ++ whenDue c.now r.silence (.silenceExpiry d) ++
    whenDue c.now r.hold (.holdExpiry d) ++ whenDue c.now (c.arb.window.get d) (.startWindowExpiry d) ++
    whenDue c.now ((c.arb.requests.get d).map (·.wait)) (.grantWaitExpiry d) ++
    whenDue c.now ((c.driven? d).bind (·.2.stall)) (.stallTimerExpiry d) ++
    whenDue c.now (c.streams.get d) (.streamTimerExpiry d) ++ r.axisDue d c.now ++ r.chanDue d c.now

/-- The block-waits that have come to their ends (R92). -/
def waitsDue (c : Cabin) : List Instr :=
  c.activeOrders.flatMap fun o => o.steps.flatMap fun s =>
    whenDue c.now (s.waitStart.map fun t => t + c.set.limits.blockWait * 1000) (.blockWaitExpiry o.slot s.index)

end Cabin

namespace State

/-- The electrodes' timers that have come to their moments (R155, R162). The 4000 ms of a touch are judged at its frames
(R164, R165). -/
def stripDue (s : State) : List Instr :=
  (List.finRange 4).flatMap fun e =>
    whenDue s.cab.now ((s.pad.electrodes[e.val]?).bind (·.suppression)) (.presenceSuppressionExpiry (.strip e))

/-- The slot that waits has had no answer within the answer limit (R14). -/
def answerDue (s : State) : List Instr :=
  match s.link.left.head? with
  | some (.dock d) => whenDue s.cab.now s.link.answerBy (.dockPollUnanswered d)
  | some .pad => whenDue s.cab.now s.link.answerBy .padPollUnanswered
  | none => []

/-- The poll period boundary (R13): none in SLEEP. -/
def roundDue (s : State) : List Instr :=
  if s.port.power = .sleep then [] else whenDue s.cab.now (some s.link.boundary) .pollRound

/-- The store's next write, or the reset that waited for the store (R70, R177, R180). -/
def storeDue (s : State) : List Instr :=
  if s.port.resetting && s.store.writing.isNone then [.softResetCompletion []]
  else if s.mayWrite && !s.store.due.isEmpty then [.settingsWriteBegin]
  else if s.mayWrite && !s.cab.layouts.dirty.isEmpty then [.layoutWriteBegin]
  else []

/-- Everything that has fallen due, in the order it is taken (log 6). -/
def allDue (s : State) : List Instr :=
  whenDue s.cab.now s.port.fresh .vehicleStateStale ++ whenDue s.cab.now s.intrusion .intrusionStale ++
    whenDue s.cab.now s.port.quiet .quietTimerExpiry ++ whenDue s.cab.now s.cab.pool.grace .pauseGraceExpiry ++
    Dock.all.flatMap s.cab.dockDue ++ s.cab.waitsDue ++ s.stripDue ++ s.answerDue ++ s.roundDue ++ s.storeDue

/-- One millisecond without a command from outside: the clock advances and what has fallen due is queued (log 6). -/
def tick (s : State) : State :=
  let s := s.quietWires.modCab fun c => { c with now := c.now + 1 }
  { s with pending := s.pending ++ s.allDue }

end State

end Sys2Proof.Machine
end

