-- ==== Sys2Proof/Machine/Dispatch.lean ====
section
/-! DEFINITION. One arm per command of spec/opcode_table.json, each one call of its meaning. -/

namespace Sys2Proof.Machine

open Sys2Proof

/-- The effect of a command on everything but the queue. -/
def exec (i : Instr) (s : State) : Host.Outcome State Fault Refusal :=
  match i with
  | .powerOn failing => Sys2Proof.Machine.execPowerOn failing s
  | .softReset h => Sys2Proof.Machine.execSoftReset h s
  | .softResetCompletion failing => Sys2Proof.Machine.execSoftResetCompletion failing s
  | .lookupLayout h number => Sys2Proof.Machine.execLookupLayout h number s
  | .lookupLabel h label => Sys2Proof.Machine.execLookupLabel h label s
  | .listLayouts h filter => Sys2Proof.Machine.execListLayouts h filter s
  | .lookupMatch h => Sys2Proof.Machine.execLookupMatch h s
  | .writeLayout h number contents => Sys2Proof.Machine.execWriteLayout h number contents s
  | .retireLayout h number => Sys2Proof.Machine.execRetireLayout h number s
  | .invokeLayout h number generation urgency => Sys2Proof.Machine.execInvokeLayout h number generation urgency s
  | .moveAxis h dock axis target urgency => Sys2Proof.Machine.execMoveAxis h dock axis target urgency s
  | .homing h dock axis => Sys2Proof.Machine.execHoming h dock axis s
  | .cancelOrder h number => Sys2Proof.Machine.execCancelOrder h number s
  | .cancelAll h => Sys2Proof.Machine.execCancelAll h s
  | .lookupOrder h number part => Sys2Proof.Machine.execLookupOrder h number part s
  | .lookupPosture h dock part => Sys2Proof.Machine.execLookupPosture h dock part s
  | .queryCells h lane => Sys2Proof.Machine.execQueryCells h lane s
  | .reEnroll h dock => Sys2Proof.Machine.execReEnroll h dock s
  | .writeGeometry h kind revision contents => Sys2Proof.Machine.execWriteGeometry h kind revision contents s
  | .writeDockTable h placements => Sys2Proof.Machine.execWriteDockTable h placements s
  | .setOverride h kind axis param value => Sys2Proof.Machine.execSetOverride h kind axis param value s
  | .setBudget h limit => Sys2Proof.Machine.execSetBudget h limit s
  | .setLimits h w => Sys2Proof.Machine.execSetLimits h w s
  | .writeBindings h bindings => Sys2Proof.Machine.execWriteBindings h bindings s
  | .reseed h dock channel => Sys2Proof.Machine.execReseed h dock channel s
  | .reseedBaseline h dock axis => Sys2Proof.Machine.execReseedBaseline h dock axis s
  | .ackRestart h => Sys2Proof.Machine.execAckRestart h s
  | .badRequest h kind => Sys2Proof.Machine.execBadRequest h kind s
  | .requestDiscarded h => Sys2Proof.Machine.execRequestDiscarded h s
  | .responseSend => Sys2Proof.Machine.execResponseSend s
  | .noticeSend => Sys2Proof.Machine.execNoticeSend s
  | .vehicleStateFrame bytes => Sys2Proof.Machine.execVehicleStateFrame bytes s
  | .vehicleStateStale => Sys2Proof.Machine.execVehicleStateStale s
  | .intrusionFrame bytes => Sys2Proof.Machine.execIntrusionFrame bytes s
  | .intrusionStale => Sys2Proof.Machine.execIntrusionStale s
  | .networkSleepFrame => Sys2Proof.Machine.execNetworkSleepFrame s
  | .canWake => Sys2Proof.Machine.execCanWake s
  | .padWake => Sys2Proof.Machine.execPadWake s
  | .quietTimerExpiry => Sys2Proof.Machine.execQuietTimerExpiry s
  | .streamTimerExpiry d => Sys2Proof.Machine.execStreamTimerExpiry d s
  | .latchClosed d => Sys2Proof.Machine.execLatchClosed d s
  | .latchOpen d line => Sys2Proof.Machine.execLatchOpen d line s
  | .settleExpiry d => Sys2Proof.Machine.execSettleExpiry d s
  | .powerUpDelayExpiry d => Sys2Proof.Machine.execPowerUpDelayExpiry d s
  | .pageLimitExpiry d => Sys2Proof.Machine.execPageLimitExpiry d s
  | .silenceExpiry d => Sys2Proof.Machine.execSilenceExpiry d s
  | .holdExpiry d => Sys2Proof.Machine.execHoldExpiry d s
  | .pollRound => Sys2Proof.Machine.execPollRound s
  | .dockPollAnswered d bytes => Sys2Proof.Machine.execDockPollAnswered d bytes s
  | .dockPollUnanswered d => Sys2Proof.Machine.execDockPollUnanswered d s
  | .fifthUnansweredPoll d => Sys2Proof.Machine.execFifthUnansweredPoll d s
  | .nodePage d bytes => Sys2Proof.Machine.execNodePage d bytes s
  | .padPollAnswered bytes => Sys2Proof.Machine.execPadPollAnswered bytes s
  | .padPollUnanswered => Sys2Proof.Machine.execPadPollUnanswered s
  | .padAbsent => Sys2Proof.Machine.execPadAbsent s
  | .blockWaitExpiry slot index => Sys2Proof.Machine.execBlockWaitExpiry slot index s
  | .pauseGraceExpiry => Sys2Proof.Machine.execPauseGraceExpiry s
  | .startWindowExpiry d => Sys2Proof.Machine.execStartWindowExpiry d s
  | .grantWaitExpiry d => Sys2Proof.Machine.execGrantWaitExpiry d s
  | .stallTimerExpiry d => Sys2Proof.Machine.execStallTimerExpiry d s
  | .referenceSuppressionExpiry d axis => Sys2Proof.Machine.execReferenceSuppressionExpiry d axis s
  | .presenceSuppressionExpiry ch => Sys2Proof.Machine.execPresenceSuppressionExpiry ch s
  | .touchExpiry => Sys2Proof.Machine.execTouchExpiry s
  | .layoutWriteBegin => Sys2Proof.Machine.execLayoutWriteBegin s
  | .layoutWriteComplete readBack => Sys2Proof.Machine.execLayoutWriteComplete readBack s
  | .settingsWriteBegin => Sys2Proof.Machine.execSettingsWriteBegin s
  | .settingsWriteComplete readBack => Sys2Proof.Machine.execSettingsWriteComplete readBack s
  | .latchWake d line closed => Sys2Proof.Machine.execLatchWake d line closed s

end Sys2Proof.Machine
end

