-- ==== Sys2Proof/Machine/Frames.lean ====
section
/-! DEFINITION. Frames of the CAN channel read as commands (R169, R170, R176, R181, R182): the arguments of each request kind,
and what becomes of a frame by its identifier. The spec gives a request's kind, tag and profile their bytes, and WRITE_LAYOUT
and the part argument theirs; the other arguments stand in the order in which their kind names them (log 58). -/

namespace Sys2Proof.Machine

open Sys2Proof

/-! ### Fields -/

/-- A one-byte field that may be absent (R181). -/
def optByteAt (bs : List Byte) (i : Nat) : Option Nat := if byteAt bs i = 255 then none else some (byteAt bs i)

/-- A two-byte field that may be absent (R181). -/
def optWordAt (bs : List Byte) (i : Nat) : Option Nat := if wordAt bs i = 65535 then none else some (wordAt bs i)

/-- An argument after the fixed ones: absent where the frame ends before it (R183). -/
def trailingByteAt (bs : List Byte) (i : Nat) : Option Nat := if bs.length ≤ i then none else optByteAt bs i

/-- The characters of a label field of 13 bytes: the bytes past its length are ignored (R181). A length above 12 has no
characters past the twelfth, so that the label is one no label of R52 has. -/
def labelAt (bs : List Byte) (i : Nat) : List Nat :=
  let n := byteAt bs i
  ((List.range (min n 12)).map fun j => byteAt bs (i + 1 + j)) ++ List.replicate (n - 12) 0

/-- A reader: what it reads from the front of the bytes and the bytes left, or none where they end before it. -/
abbrev Reader (α : Type) : Type := List Byte → Option (α × List Byte)

/-- One byte as a number. -/
def readByte : Reader Nat
  | b :: bs => some (b.toNat, bs)
  | [] => none

/-- Two bytes as a number, the most significant first. -/
def readWord : Reader Nat
  | a :: b :: bs => some (a.toNat * 256 + b.toNat, bs)
  | _ => none

/-- So many items, one after another. -/
def readMany {α : Type} (read : Reader α) : Nat → Reader (List α)
  | 0, bs => some ([], bs)
  | n + 1, bs =>
    match read bs with
    | none => none
    | some (x, bs) => (readMany read n bs).map fun p => (x :: p.1, p.2)

/-- A count byte and so many items; 255 for a list that is absent. -/
def readCounted {α : Type} (read : Reader α) (bs : List Byte) : Option (Option (List α) × List Byte) :=
  match readByte bs with
  | none => none
  | some (n, bs) => if n = 255 then some (none, bs) else (readMany read n bs).map fun p => (some p.1, p.2)

/-! ### WRITE_LAYOUT (section 11.4) -/

/-- The targets of an entry for the axis codes from a list: one for each bit that its target set has, two bytes for SLIDE
and one for any other axis. Bits 5 to 7 name no axis kind, and their targets are refused by check 3 of R58. -/
def readTargets (set : Nat) : List Nat → Reader (List (Nat × Nat))
  | [], bs => some ([], bs)
  | k :: ks, bs =>
    if set / 2 ^ k % 2 = 0 then readTargets set ks bs
    else
      match (if k = 0 then readWord bs else readByte bs) with
      | none => none
      | some (v, bs) => (readTargets set ks bs).map fun p => ((k, v) :: p.1, p.2)

/-- An entry: dock and expected kind, target set, targets. -/
def readEntry : Reader RawEntry
  | a :: b :: bs =>
    (readTargets b.toNat (List.range 8) bs).map fun p => (⟨a.toNat / 16, a.toNat % 16, p.1⟩, p.2)
  | _ => none

/-- Label, owner, urgency default, entry count and entries, from the fifth byte of the frame; none where the entries are
cut short. -/
def readContents (bs : List Byte) : Option RawContents :=
  (readMany readEntry (byteAt bs 19) (bs.drop 20)).map fun p => ⟨labelAt bs 4, byteAt bs 17, byteAt bs 18, p.1⟩

/-! ### WRITE_GEOMETRY, WRITE_BINDINGS, SET_LIMITS, LIST_LAYOUTS -/

/-- A relative cell in one byte: lane offset plus 1 in bits 6 to 7, column offset in bits 3 to 5, tier in bits 0 to 2. -/
def readCell (bs : List Byte) : Option (RelCell × List Byte) :=
  (readByte bs).map fun p => (⟨((p.1 / 64 : Nat) : Int) - 1, p.1 / 8 % 8, p.1 % 8⟩, p.2)

/-- A cell list: its count and its cells. -/
def readCells (bs : List Byte) : Option (List RelCell × List Byte) :=
  match readByte bs with
  | none => none
  | some (n, bs) => readMany readCell n bs

/-- A station: boundary, flag where the table has flags, cell list. A flag byte with no value assigned reads as no
station. -/
def readStation (flagged : Bool) (bs : List Byte) : Option (Option Station × List Byte) :=
  match readWord bs with
  | none => none
  | some (boundary, bs) =>
    match (if flagged then readByte bs else some (0, bs)) with
    | none => none
    | some (flag, bs) =>
      (readCells bs).map fun p => (if flag ≤ 1 then some ⟨boundary, p.1, flag == 1⟩ else none, p.2)

/-- A station table that may be absent; one with a flag that has no value assigned reads as absent, which check 3 of R31
refuses for the tables that have flags. -/
def readTable (flagged : Bool) (bs : List Byte) : Option (Option (List Station) × List Byte) :=
  (readCounted (readStation flagged) bs).map fun p => (p.1.bind fun l => l.mapM id, p.2)

/-- The contents of a geometry entry: slide reach, base, recline and headrest tables, fixed base cells. -/
def readGeometry (bs : List Byte) : Option RawGeometry := do
  let (reach, bs) ← readWord bs
  let (base, bs) ← readTable true bs
  let (recline, bs) ← readTable true bs
  let (headrest, bs) ← readTable false bs
  let (fixed, _) ← readCounted readCell bs
  pure ⟨if reach = 65535 then none else some reach, base, recline, headrest, fixed⟩

/-- Contents that check 3 of R31 refuses. -/
def noGeometry : RawGeometry := ⟨none, none, none, none, none⟩

/-- The contents after the mark in byte 5: 0 for their absence, 1 for contents; another mark is refused. None where they are
cut short. -/
def geometryContents (bs : List Byte) : Option (Option RawGeometry) :=
  match byteAt bs 5 with
  | 0 => some none
  | 1 => (readGeometry (bs.drop 6)).map some
  | _ => some (some noGeometry)

/-- A binding: gesture, zone, action, layout or dock number. -/
def readBinding : Reader RawBinding
  | g :: z :: a :: n :: bs => some (⟨g.toNat, if z = 255 then none else some z.toNat, a.toNat, n.toNat⟩, bs)
  | _ => none

/-- The place of a threshold item among the items of a channel kind: PROX, TOUCH, HYSTERESIS (R178). -/
def thresholdItem (k : ChanKind) (i v : Nat) : LimitWrite :=
  match i with
  | 0 => .prox k v
  | 1 => .touch k v
  | _ => .hysteresis k v

/-- The item of SET_LIMITS in byte 3 and its value from byte 4, with the length of the value. Items are numbered from 0 in the
order of R178's table, the threshold items channel kind by channel kind. -/
def limitAt (bs : List Byte) : LimitWrite × Nat :=
  let v := wordAt bs 4
  match byteAt bs 3 with
  | 0 => (.blockWait v, 2)
  | 1 => (.currentFilter v, 2)
  | 2 => (.slideMargin v, 2)
  | 3 => (.axisMargin v, 2)
  | 4 => (.reverseDistance v, 2)
  | 5 => (thresholdItem .cushion 0 v, 2)
  | 6 => (thresholdItem .cushion 1 v, 2)
  | 7 => (thresholdItem .cushion 2 v, 2)
  | 8 => (thresholdItem .back 0 v, 2)
  | 9 => (thresholdItem .back 1 v, 2)
  | 10 => (thresholdItem .back 2 v, 2)
  | 11 => (thresholdItem .lid 0 v, 2)
  | 12 => (thresholdItem .lid 1 v, 2)
  | 13 => (thresholdItem .lid 2 v, 2)
  | 14 => (.presenceFilter v, 2)
  | 15 => (.tuningBand v, 2)
  | 16 => (thresholdItem .strip 0 v, 2)
  | 17 => (thresholdItem .strip 1 v, 2)
  | 18 => (thresholdItem .strip 2 v, 2)
  | 19 => (.noticeMode (byteAt bs 4), 1)
  | n =>
    if n ≤ 35 then
      (.identifier (n - 20) ((optWordAt bs 4).map fun r => ⟨r, wordAt bs 6, byteAt bs 8⟩), 5)
    else (.unknown n, 0)

/-- The owner filter of LIST_LAYOUTS, its values numbered from 0 in the order of R57's table. -/
def filterOf (n : Nat) : OwnerFilter :=
  match n with
  | 0 => .all
  | 1 => .shared
  | 2 => .profile 1
  | 3 => .profile 2
  | 4 => .profile 3
  | 5 => .profile 4
  | 6 => .visible
  | n => .unknown n

/-- A placement of WRITE_DOCK_TABLE at a byte: lane, origin column, mirror flag, allowed kind (R33). -/
def placementAt (bs : List Byte) (i : Nat) : RawPlacement :=
  ⟨byteAt bs i, byteAt bs (i + 1), byteAt bs (i + 2), byteAt bs (i + 3)⟩

/-! ### Request frames -/

/-- A request frame on an identifier as the command it is (R170, R182): kind, tag, driver profile, and from byte 3 the
arguments. A frame shorter than its kind's fixed fields, or whose lists are cut short, is marked `short`; bytes past the last
field are ignored (R181). -/
def decodeRequest (ident : Nat) (bs : List Byte) : Instr :=
  let head (short : Bool) : ReqHdr := ⟨ident, byteAt bs 1, byteAt bs 2, short⟩
  let h (fixed : Nat) : ReqHdr := head (decide (bs.length < 3 + fixed))
  let b (i : Nat) : Nat := byteAt bs i
  match b 0 with
  | 0 => .lookupLayout (h 1) (b 3)
  | 1 => .lookupLabel (h 13) (labelAt bs 3)
  | 2 => .listLayouts (h 1) (filterOf (b 3))
  | 3 => .lookupMatch (h 0)
  | 4 =>
    match readContents bs with
    | some c => .writeLayout (h 17) (b 3) c
    | none => .writeLayout (head true) (b 3) ⟨[], 0, 0, []⟩
  | 5 => .retireLayout (h 1) (b 3)
  | 6 => .invokeLayout (h 4) (b 3) (optWordAt bs 4) (optByteAt bs 6)
  | 7 => .moveAxis (h 5) (b 3) (b 4) (wordAt bs 5) (optByteAt bs 7)
  | 8 => .homing (h 2) (b 3) (optByteAt bs 4)
  | 9 => .cancelOrder (h 2) (wordAt bs 3)
  | 10 => .cancelAll (h 0)
  | 11 => .lookupOrder (h 2) (wordAt bs 3) (trailingByteAt bs 5)
  | 12 => .lookupPosture (h 1) (b 3) (trailingByteAt bs 4)
  | 13 => .queryCells (h 1) (b 3)
  | 14 => .reEnroll (h 1) (b 3)
  | 15 =>
    match geometryContents bs with
    | some c => .writeGeometry (h 3) (b 3) (b 4) c
    | none => .writeGeometry (head true) (b 3) (b 4) (some noGeometry)
  | 16 => .writeDockTable (h 20) [placementAt bs 3, placementAt bs 7, placementAt bs 11, placementAt bs 15, placementAt bs 19]
  | 17 => .setOverride (h 5) (b 3) (b 4) (b 5) (optWordAt bs 6)
  | 18 => .setBudget (h 2) (wordAt bs 3)
  | 19 => .setLimits (h (1 + (limitAt bs).2)) (limitAt bs).1
  | 20 =>
    match readMany readBinding (b 3) (bs.drop 4) with
    | some (l, _) => .writeBindings (h 1) l
    | none => .writeBindings (head true) []
  | 21 => .reseed (h 2) (b 3) (b 4)
  | 22 => .reseedBaseline (h 2) (b 3) (b 4)
  | 23 => .softReset (h 0)
  | 24 => .ackRestart (h 0)
  | k => .badRequest (h 0) k

/-- The request header of a command, for the commands that are requests. -/
def headerOf? : Instr → Option ReqHdr
  | .softReset h | .lookupLayout h _ | .lookupLabel h _ | .listLayouts h _ | .lookupMatch h | .writeLayout h _ _
  | .retireLayout h _ | .invokeLayout h _ _ _ | .moveAxis h _ _ _ _ | .homing h _ _ | .cancelOrder h _ | .cancelAll h
  | .lookupOrder h _ _ | .lookupPosture h _ _ | .queryCells h _ | .reEnroll h _ | .writeGeometry h _ _ _
  | .writeDockTable h _ | .setOverride h _ _ _ _ | .setBudget h _ | .setLimits h _ | .writeBindings h _ | .reseed h _ _
  | .reseedBaseline h _ _ | .ackRestart h | .badRequest h _ | .requestDiscarded h => some h
  | .powerOn _ | .softResetCompletion _ | .responseSend | .noticeSend | .vehicleStateFrame _ | .vehicleStateStale
  | .intrusionFrame _ | .intrusionStale | .networkSleepFrame | .canWake | .padWake | .quietTimerExpiry
  | .streamTimerExpiry _ | .latchClosed _ | .latchOpen _ _ | .settleExpiry _ | .powerUpDelayExpiry _ | .pageLimitExpiry _
  | .silenceExpiry _ | .holdExpiry _ | .pollRound | .dockPollAnswered _ _ | .dockPollUnanswered _ | .fifthUnansweredPoll _
  | .nodePage _ _ | .padPollAnswered _ | .padPollUnanswered | .padAbsent | .blockWaitExpiry _ _ | .pauseGraceExpiry
  | .startWindowExpiry _ | .grantWaitExpiry _ | .stallTimerExpiry _ | .referenceSuppressionExpiry _ _
  | .presenceSuppressionExpiry _ | .touchExpiry | .layoutWriteBegin | .layoutWriteComplete _ | .settingsWriteBegin
  | .settingsWriteComplete _ | .latchWake _ _ _ => none

/-! ### The same frames as a requester sends them -/

/-- A target as carried: two bytes for SLIDE, one for any other axis (section 11.4). -/
def targetBytes (t : Nat × Nat) : List Byte := if t.1 = 0 then wordOf t.2 else [byteOf t.2]

/-- An entry as carried (section 11.4). -/
def rawEntryBytes (e : RawEntry) : List Byte :=
  [byteOf (e.dock * 16 + e.kind), byteOf (e.targets.foldl (fun n t => n + 2 ^ t.1) 0)] ++ e.targets.flatMap targetBytes

/-- Layout contents as carried (section 11.4). -/
def contentsBytes (c : RawContents) : List Byte :=
  labelBytes c.label ++ [byteOf c.owner, byteOf c.urgency, byteOf c.entries.length] ++ c.entries.flatMap rawEntryBytes

/-- A relative cell in one byte. -/
def cellByte (r : RelCell) : Byte := byteOf ((r.lane + 1).toNat * 64 + r.col * 8 + r.tier)

/-- A counted list that may be absent. -/
def countedBytes {α : Type} (f : α → List Byte) : Option (List α) → List Byte
  | none => [255]
  | some l => byteOf l.length :: l.flatMap f

/-- A station as carried. -/
def stationBytes (flagged : Bool) (s : Station) : List Byte :=
  wordOf s.boundary ++ (if flagged then [flagOf s.flag] else []) ++ byteOf s.cells.length :: s.cells.map cellByte

/-- Geometry contents as carried. -/
def geometryBytes (g : RawGeometry) : List Byte :=
  optWord g.reach ++ countedBytes (stationBytes true) g.base ++ countedBytes (stationBytes true) g.recline ++
    countedBytes (stationBytes false) g.headrest ++ countedBytes (fun r => [cellByte r]) g.fixed

/-- The item code of a channel kind's PROX. -/
def thresholdCode : ChanKind → Nat
  | .cushion => 5
  | .back => 8
  | .lid => 11
  | .strip => 16

/-- An item of SET_LIMITS with its value, as carried. -/
def limitBytes : LimitWrite → List Byte
  | .blockWait v => 0 :: wordOf v
  | .currentFilter v => 1 :: wordOf v
  | .slideMargin v => 2 :: wordOf v
  | .axisMargin v => 3 :: wordOf v
  | .reverseDistance v => 4 :: wordOf v
  | .prox k v => byteOf (thresholdCode k) :: wordOf v
  | .touch k v => byteOf (thresholdCode k + 1) :: wordOf v
  | .hysteresis k v => byteOf (thresholdCode k + 2) :: wordOf v
  | .presenceFilter v => 14 :: wordOf v
  | .tuningBand v => 15 :: wordOf v
  | .noticeMode c => [19, byteOf c]
  | .identifier place b =>
    byteOf (20 + place) :: optWord (b.map (·.request)) ++ wordOf ((b.map (·.response)).getD 0) ++
      [byteOf ((b.map (·.cls)).getD 0)]
  | .unknown item => [byteOf item]

/-- The code of an owner filter. -/
def filterCode : OwnerFilter → Nat
  | .all => 0
  | .shared => 1
  | .profile n => n + 1
  | .visible => 6
  | .unknown n => n

/-- The part argument, left out where part 0 is asked for without it (R183). -/
def partBytes : Option Nat → List Byte
  | none => []
  | some n => [byteOf n]

/-- The kind and the arguments of a request as carried; none for a command that no request frame carries. -/
def requestBytes? : Instr → Option (Nat × List Byte)
  | .lookupLayout _ n => some (0, [byteOf n])
  | .lookupLabel _ l => some (1, labelBytes l)
  | .listLayouts _ f => some (2, [byteOf (filterCode f)])
  | .lookupMatch _ => some (3, [])
  | .writeLayout _ n c => some (4, byteOf n :: contentsBytes c)
  | .retireLayout _ n => some (5, [byteOf n])
  | .invokeLayout _ n g u => some (6, [byteOf n] ++ optWord g ++ [optByte u])
  | .moveAxis _ d a t u => some (7, [byteOf d, byteOf a] ++ wordOf t ++ [optByte u])
  | .homing _ d a => some (8, [byteOf d, optByte a])
  | .cancelOrder _ n => some (9, wordOf n)
  | .cancelAll _ => some (10, [])
  | .lookupOrder _ n p => some (11, wordOf n ++ partBytes p)
  | .lookupPosture _ d p => some (12, byteOf d :: partBytes p)
  | .queryCells _ l => some (13, [byteOf l])
  | .reEnroll _ d => some (14, [byteOf d])
  | .writeGeometry _ k r none => some (15, [byteOf k, byteOf r, 0])
  | .writeGeometry _ k r (some g) => some (15, [byteOf k, byteOf r, 1] ++ geometryBytes g)
  | .writeDockTable _ l => some (16, l.flatMap fun p => [byteOf p.lane, byteOf p.origin, byteOf p.mirror, byteOf p.kind])
  | .setOverride _ k a p v => some (17, [byteOf k, byteOf a, byteOf p] ++ optWord v)
  | .setBudget _ n => some (18, wordOf n)
  | .setLimits _ w => some (19, limitBytes w)
  | .writeBindings _ l =>
    some (20, byteOf l.length :: l.flatMap fun x => [byteOf x.gesture, optByte x.zone, byteOf x.action, byteOf x.arg])
  | .reseed _ d c => some (21, [byteOf d, byteOf c])
  | .reseedBaseline _ d a => some (22, [byteOf d, byteOf a])
  | .softReset _ => some (23, [])
  | .ackRestart _ => some (24, [])
  | .badRequest _ k => some (k, [])
  | _ => none

/-- The request frame of a command (R182): kind, tag, driver profile, arguments. -/
def requestFrame? (i : Instr) : Option CanFrame :=
  match headerOf? i, requestBytes? i with
  | some h, some (k, args) => some ⟨h.ident, [byteOf k, byteOf h.tag, byteOf h.profile] ++ args⟩
  | _, _ => none

/-! ### Which requests a frame carries as they are -/

/-- A one-byte field that may be absent. -/
def byteFits (n : Option Nat) : Bool := n.all fun n => n ≤ 254

/-- A two-byte field that may be absent. -/
def wordFits (n : Option Nat) : Bool := n.all fun n => n ≤ 65534

/-- A label field: at most 12 characters. -/
def labelFits (l : List Nat) : Bool := l.length ≤ 12 && l.all fitsByte

/-- An entry as carried: targets in axis order, each in its field. -/
def entryFits (e : RawEntry) : Bool :=
  e.dock ≤ 15 && e.kind ≤ 15 && decide ((e.targets.map (·.1)).Pairwise (· < ·)) &&
    e.targets.all fun t => t.1 ≤ 7 && if t.1 = 0 then fitsWord t.2 else fitsByte t.2

/-- A relative cell that its byte carries. -/
def cellFits (r : RelCell) : Bool := -1 ≤ r.lane && r.lane ≤ 2 && r.col ≤ 7 && r.tier ≤ 7

/-- A station table as carried; the stations of a table without flags have none. -/
def tableFits (flagged : Bool) (t : List Station) : Bool :=
  t.length ≤ 254 && t.all fun s =>
    fitsWord s.boundary && s.cells.length ≤ 255 && s.cells.all cellFits && (flagged || !s.flag)

/-- Geometry contents as carried. -/
def geometryFits (g : RawGeometry) : Bool :=
  wordFits g.reach && g.base.all (tableFits true) && g.recline.all (tableFits true) && g.headrest.all (tableFits false) &&
    g.fixed.all fun l => l.length ≤ 254 && l.all cellFits

/-- An item of SET_LIMITS as carried. -/
def limitFits : LimitWrite → Bool
  | .blockWait v | .currentFilter v | .slideMargin v | .axisMargin v | .reverseDistance v | .prox _ v | .touch _ v
  | .hysteresis _ v | .presenceFilter v | .tuningBand v => fitsWord v
  | .noticeMode c => fitsByte c
  | .identifier place b => place ≤ 15 && b.all fun b => b.request ≤ 65534 && fitsWord b.response && fitsByte b.cls
  | .unknown n => 36 ≤ n && n ≤ 255

/-- An owner filter as carried. -/
def filterFits : OwnerFilter → Bool
  | .all | .shared | .visible => true
  | .profile n => 1 ≤ n && n ≤ 4
  | .unknown n => 7 ≤ n && n ≤ 255

/-- The arguments of a request fit their fields. -/
def argumentsFit : Instr → Bool
  | .lookupLayout _ n | .retireLayout _ n | .queryCells _ n | .reEnroll _ n => fitsByte n
  | .lookupLabel _ l => labelFits l
  | .listLayouts _ f => filterFits f
  | .writeLayout _ n c =>
    fitsByte n && labelFits c.label && fitsByte c.owner && fitsByte c.urgency && c.entries.length ≤ 255 &&
      c.entries.all entryFits
  | .invokeLayout _ n g u => fitsByte n && wordFits g && byteFits u
  | .moveAxis _ d a t u => fitsByte d && fitsByte a && fitsWord t && byteFits u
  | .homing _ d a => fitsByte d && byteFits a
  | .cancelOrder _ n | .setBudget _ n => fitsWord n
  | .lookupOrder _ n p => fitsWord n && byteFits p
  | .lookupPosture _ d p => fitsByte d && byteFits p
  | .writeGeometry _ k r g => fitsByte k && fitsByte r && g.all geometryFits
  | .writeDockTable _ l =>
    l.length == 5 && l.all fun p => fitsByte p.lane && fitsByte p.origin && fitsByte p.mirror && fitsByte p.kind
  | .setOverride _ k a p v => fitsByte k && fitsByte a && fitsByte p && wordFits v
  | .setLimits _ w => limitFits w
  | .writeBindings _ l =>
    l.length ≤ 255 && l.all fun x => fitsByte x.gesture && byteFits x.zone && fitsByte x.action && fitsByte x.arg
  | .reseed _ d c => fitsByte d && fitsByte c
  | .reseedBaseline _ d a => fitsByte d && fitsByte a
  | .badRequest _ k => unknownKindCode k
  | _ => true

/-- A request that its frame carries as it is: a frame long enough, tag and profile in their bytes, arguments in their
fields. -/
def carried (i : Instr) : Bool :=
  (requestBytes? i).isSome && ((headerOf? i).any fun h => !h.short && h.wf) && argumentsFit i

/-! ### Frames by their identifier -/

/-- What a frame on the CAN channel is to the part as it stands (R169, R170, R176): on a binding's request identifier a
request, discarded while 8 responses wait; on a fixed identifier its intake frame; in SLEEP a CAN wake, the frame itself not
taken; on any other identifier nothing, the notice identifier with them: DEDUCED, log 74. -/
def State.frameCommand? (s : State) (f : CanFrame) : Option Instr :=
  let r := s.cab.set.identifiers
  let known : Bool := (r.binding? f.ident).isSome || [r.vehicle, r.intrusion, r.sleep].contains f.ident
  if s.port.power = .sleep then if known then some .canWake else none
  else if (r.binding? f.ident).isSome then
    let i := decodeRequest f.ident f.bytes
    if 8 ≤ s.port.queue.length then (headerOf? i).map .requestDiscarded else some i
  else if f.ident = r.vehicle then some (.vehicleStateFrame f.bytes)
  else if f.ident = r.intrusion then some (.intrusionFrame f.bytes)
  else if f.ident = r.sleep then some .networkSleepFrame
  else none

/-- A frame on the CAN channel joins the queue as the command it is. -/
def State.hear (s : State) (f : CanFrame) : State := { s with pending := s.pending ++ (s.frameCommand? f).toList }

end Sys2Proof.Machine
end

