-- ==== Sys2Proof/Safety.lean ====
section
/-! DEFINITION. What the part keeps in every state (the invariants of R25, R50, R69, R74, R75, R106, R170, R172), what
parts of a record a command's inner working leaves alone, the conditions under which a request is taken, the tables that its
contents keep to (R31, R33, R58, R166), and what a unit covers and a layout matches (R35 to R40, R61, R62, R65). -/

namespace Sys2Proof.Machine

open Sys2Proof

/-! ### Invariants -/

/-- R25: 288 cells, and a holder lists only cells held by other holders. -/
structure CellMap.Sound (m : CellMap) : Prop where
  size : m.cells.length = 288
  listed : ∀ (h : Holder) (x : Cell), (m.listed.get h).mem x = true → ∃ g, m.holderOf x = some g ∧ g ≠ h

/-- R106: the sum of the grants held is at most the effective budget. -/
def Arbiter.Fits (a : Arbiter) : Prop := a.held ≤ a.budget

/-- R74: every slot is on the free list or on the active list, once. -/
def Pool.Parted (p : Pool) : Prop := (p.free ++ p.active).Perm Slot.all

/-- R76: an order record stands in the slot it names. -/
def Pool.Named (p : Pool) : Prop := ∀ (s : Slot) (o : Order), p.recs.get s = some o → o.slot = s

/-- R75: a slot on the active list has a record, no two of them one number, and numbers are 1 to 65535. -/
structure Pool.Numbered (p : Pool) : Prop where
  filled : ∀ s ∈ p.active, (p.recs.get s).isSome = true
  once : (p.active.map fun s => (p.recs.get s).map (·.number)).Nodup
  range : ∀ s ∈ p.active, ∀ o, p.recs.get s = some o → 1 ≤ o.number ∧ o.number ≤ 65535
  next : 1 ≤ p.next ∧ p.next ≤ 65535

/-- R172: a subject is pending at most once. -/
def NoticesOnce (l : List Notice) : Prop := (l.map (·.subject)).Nodup

/-- R50, R52, R69: live numbers rise within 1 to 24, the six FACTORY numbers are always live, no two live labels are the
same, and the dirty numbers rise within 1 to 24. -/
structure LayoutTable.Sound (t : LayoutTable) : Prop where
  rising : (t.live.map (·.number)).Pairwise (· < ·)
  range : ∀ l ∈ t.live, 1 ≤ l.number ∧ l.number ≤ 24
  factory : ∀ n ∈ factoryNumbers, ∃ l ∈ t.live, l.number = n
  labels : (t.live.map (·.label)).Nodup
  dirtyRising : t.dirty.Pairwise (· < ·)
  dirtyRange : ∀ n ∈ t.dirty, 1 ≤ n ∧ n ≤ 24

/-- R170: at most eight responses wait. -/
def Port.Bounded (p : Port) : Prop := p.queue.length ≤ 8

/-- The invariants of a cabin together. -/
structure Cabin.Safe (c : Cabin) : Prop where
  map : c.map.Sound
  budget : c.arb.Fits
  parted : c.pool.Parted
  named : c.pool.Named
  numbered : c.pool.Numbered
  notices : NoticesOnce c.notices
  layouts : c.layouts.Sound

/-! ### What the inner working of the part leaves of a record -/

/-- What motion and arbitration change of an axis record between one status frame or stall and the next is left out here:
what enrolment gave it, the count last reported, its reference state and whether it is enabled stand. -/
def Axis.enrolled (a : Axis) : Axis :=
  { a with count := 0, overrun := 0, drift := 0, cond := .idle, move := none, baselines := [], reseed := false }

/-- What tuning leaves of a channel record between one status frame and the next. -/
def Chan.measured (x : Chan) : Chan := { newChan x.kind with raw := x.raw, suppression := x.suppression }

/-- What motion, arbitration and presence leave of a dock record between one event at the dock and the next; attention and
lamp change in READY alone. -/
def DockRec.fixed (r : DockRec) : DockRec :=
  { r with
    attention := if r.state = .ready then .none else r.attention
    lamp := if r.state = .ready then .off else r.lamp
    occupancy := .unknown, command := .brake
    axes := r.axes.map Axis.enrolled, chans := r.chans.map Chan.measured }

/-- What a step record keeps from its admission on (R77). -/
def Step.admitted (s : Step) : Step :=
  { s with
    state := .pending, blocker := none, waitStart := none, holds := false, stopCause := none, failure := none
    fold := false, claimFrom := 0, obstruction := none }

/-- What an order record keeps from its admission on (R76). -/
def Order.admitted (o : Order) : Order :=
  { o with
    steps := o.steps.map Step.admitted, state := .active, cancelTaken := false, superseded := [], firstFailure := none }

/-! ### Taking a request (R169, R170, R180) -/

/-- A request of a header is taken, and answered by the rule of its kind: the part is not in SLEEP, the identifier is that
of a binding, fewer than 8 responses wait, no reset waits, the frame has its fixed fields, the profile is 0 to 4. Nothing
is left to tell from an earlier command. -/
structure State.Takes (s : State) (h : ReqHdr) (b : IdentBinding) : Prop where
  awake : s.port.power ≠ .sleep
  known : s.cab.set.identifiers.binding? h.ident = some b
  room : s.port.queue.length < 8
  running : s.port.resetting = false
  long : h.short = false
  profile : h.profile ≤ 4
  told : s.cab.agenda = []

/-- A response of a code, detail and data for a request of a kind is added to the queue (R170). -/
def State.Answered (s t : State) (b : IdentBinding) (kind : Nat) (h : ReqHdr) (a : Answer) : Prop :=
  t.port.queue = s.port.queue ++ [⟨b.response, kind, h.tag, a.code, a.detail, s.port.restarted, a.data⟩]

/-- Everything outside the cabin and the store that is not the Port's own running or the round's period is as it was. -/
structure State.SameBeside (s t : State) : Prop where
  pad : t.pad = s.pad
  latchA : t.latchA = s.latchA
  latchB : t.latchB = s.latchB
  intrusion : t.intrusion = s.intrusion
  pending : t.pending = s.pending
  round : t.link.left = s.link.left ∧ t.link.due = s.link.due ∧ t.link.answerBy = s.link.answerBy
  sent : t.link.sent = s.link.sent
  vehicle : t.port.speed = s.port.speed ∧ t.port.gear = s.port.gear ∧ t.port.voltage = s.port.voltage ∧
    t.port.fresh = s.port.fresh ∧ t.port.parked = s.port.parked
  lost : t.port.lost = s.port.lost
  restarted : t.port.restarted = s.port.restarted
  resetting : t.port.resetting = s.port.resetting

/-- The store too is as it was. -/
structure State.SameOutside (s t : State) : Prop extends s.SameBeside t where
  store : t.store = s.store

/-- A request that is answered and changes nothing besides: the cabin and all outside it are as they were. -/
structure State.OnlyAnswers (s t : State) (b : IdentBinding) (kind : Nat) (h : ReqHdr) (a : Answer) : Prop where
  cab : t.cab = s.cab
  outside : s.SameOutside t
  answered : s.Answered t b kind h a

/-- A write of a settings record: its write-due flag is set, and the store is otherwise as it was (R177). -/
structure State.SetsDue (s t : State) (i : SettingsId) : Prop where
  due : ∀ j, j ∈ t.store.due ↔ j = i ∨ j ∈ s.store.due
  rest : { t.store with due := s.store.due } = s.store

/-- An order admitted (R75, R86, R87): the head of the free list takes a record with the next number, every older order with a
step still to run on a dock of it has that dock among its superseded docks, and ORDER of the slot is pending. -/
structure State.Admits (s t : State) (a : Admission) : Prop where
  record : ∃ slot rest o, s.cab.pool.free = slot :: rest ∧ t.cab.pool.recs.get slot = some o ∧
    o.admitted = (a.order slot s.cab.nextNumber).admitted ∧ Subject.order slot ∈ t.cab.notices.map (·.subject)
  next : t.cab.pool.next = afterNumber s.cab.nextNumber
  supersedes : ∀ o ∈ s.cab.activeOrders, ∀ d, (∃ p ∈ a.plans, p.dock = d) → (∃ x ∈ o.steps, x.dock = d ∧ x.state.terminal = false) →
    ∃ o', t.cab.pool.recs.get o.slot = some o' ∧ d ∈ o'.superseded
  settings : t.cab.set = s.cab.set
  docks : ∀ d, (t.cab.dock d).state = (s.cab.dock d).state
  outside : s.SameOutside t

/-! ### Power states (R175, R176) -/

/-- R176: while the sleep-held flag is set the part is not in SLEEP and the condition for SLEEP does not hold. -/
def State.HeldRightly (s : State) : Prop := s.port.sleepHeld = true → s.port.power ≠ .sleep ∧ s.sleepHolds = false

/-- R175: the quiet timer runs in AWAKE while the quiet condition holds, and never else. -/
def State.QuietRightly (s : State) : Prop := s.port.quiet.isSome = (decide (s.port.power = .awake) && s.quietHolds)

/-! ### Footprints (R35 to R40, R62) -/

/-- R38: the cell at which a relative cell of a unit lies, at a placement and a shift. No cell outside the map does. -/
structure Placement.Puts (pl : Placement) (shift : Nat) (y : RelCell) (x : Cell) : Prop where
  lane : (x.lane.num : Int) = if pl.mirror then (pl.lane.num : Int) - y.lane else (pl.lane.num : Int) + y.lane
  column : x.col.val = pl.origin + y.col + shift
  tier : x.tier.val = y.tier

/-- A relative cell of the cell list of a station. -/
def StationHas (t : List Station) (i : Nat) (y : RelCell) : Prop := ∃ x, t[i]? = some x ∧ y ∈ x.cells

/-- R37: a cell of the relative footprint at a station of each axis, or for no base axis of the fixed base cells: the cells of a WHOLE
base station stand alone, any others with those of the recline and headrest stations. -/
def GeomEntry.Has (e : GeomEntry) (base : Option Nat) (recline head : Nat) (y : RelCell) : Prop :=
  let folded : Prop := StationHas e.recline recline y ∨ ∃ t, e.headrest = some t ∧ StationHas t head y
  match base with
  | none => y ∈ e.fixed ∨ folded
  | some i => StationHas e.base i y ∨ folded ∧ ∀ x, e.base[i]? = some x → x.flag = false

/-- R39, R40: any station of the axis, or any shift of the range from 0 to its slide travel in millimetres. -/
def Axis.Anywhere (a : Axis) (e : GeomEntry) (j : Nat) : Prop :=
  if a.kind = .slide then j ≤ (a.travel * 10 / a.pitch + 99) / 100 else j < (e.table a.kind).length

/-- R36, R40: a station between those of two counts, or a shift of the range between their millimetres, ends included. -/
def Axis.Between (a : Axis) (e : GeomEntry) (p q j : Nat) : Prop :=
  let lo := min p q
  let hi := max p q
  if a.kind = .slide then lo * 10 / a.pitch / 100 ≤ j ∧ j ≤ (hi * 10 / a.pitch + 99) / 100
  else stationOf (e.table a.kind) a.travel lo ≤ j ∧ j ≤ stationOf (e.table a.kind) a.travel hi

/-- R39: where an axis may stand as its count goes between two: there, or anywhere while the count is not believed. A DISABLED axis stands
at its count (log 46). -/
def Axis.MayStand (a : Axis) (e : GeomEntry) (p q j : Nat) : Prop :=
  if a.ref = .referenced ∨ a.enabled = false then a.Between e p q j else a.Anywhere e j

/-- R37 to R40: a cell that the unit of a dock record covers at some combination of the stations and shifts its axes may stand at. An axis
without a record stands at station 0, or shift 0; without a base axis record the base part is the fixed base cells. -/
def DockRec.Covers (r : DockRec) (stands : Axis → GeomEntry → Nat → Prop) (x : Cell) : Prop :=
  ∃ (e : GeomEntry) (pl : PlacementCopy) (base : Option Nat) (recline head shift : Nat) (y : RelCell),
    r.geometry = some e ∧ r.placement = some pl ∧ e.Has base recline head y ∧ pl.place.Puts shift y x ∧
    let at_ (k : AxisKind) (j : Nat) : Prop := (∃ a ∈ r.axes, a.kind = k ∧ stands a e j) ∨ (∀ a ∈ r.axes, a.kind ≠ k) ∧ j = 0
    at_ .recline recline ∧ at_ .headrest head ∧ at_ .slide shift ∧
      match base with
      | none => ∀ a ∈ r.axes, a.kind ≠ e.kind.baseAxis
      | some i => ∃ a ∈ r.axes, a.kind = e.kind.baseAxis ∧ stands a e i

/-- R62: where validation places an axis: at its target, clamped to the unit, or without one, and while DISABLED, at its posture. -/
def Axis.PlacedBy (targets : List (AxisKind × Nat)) (a : Axis) (e : GeomEntry) (j : Nat) : Prop :=
  (∀ v, (a.kind, v) ∈ targets → a.enabled = true →
    if a.kind = .slide then
      let mm := min v (a.travel * 10 / a.pitch)
      mm / 100 ≤ j ∧ j ≤ (mm + 99) / 100
    else j = min v ((e.table a.kind).length - 1)) ∧
  ((∀ v, (a.kind, v) ∉ targets) ∨ a.enabled = false → a.MayStand e a.count a.count j)

/-! ### Matching (R61, R65) -/

/-- R61: an entry's dock is READY with a unit of the expected kind. -/
def Entry.Matches (e : Entry) (docks : PerDock DockRec) : Prop :=
  (docks.get e.dock).state = .ready ∧
    ∃ i, (docks.get e.dock).identity = some i ∧ (e.expected = .any ∨ e.expected = .only i.kind)

/-- R65: the posture of an axis meets a target: REFERENCED, and within 5 mm of the target or in its station, clamped to the unit. -/
def Axis.Meets (a : Axis) (e : GeomEntry) (v : Nat) : Prop :=
  a.ref = .referenced ∧
    if a.kind = .slide then absDiff (a.count * 10 / a.pitch) (min v (a.travel * 10 / a.pitch)) ≤ 5
    else stationOf (e.table a.kind) a.travel a.count = min v ((e.table a.kind).length - 1)

/-- R65: a record equals the current posture. -/
def LayoutRec.Equals (l : LayoutRec) (docks : PerDock DockRec) : Prop :=
  (l.validation = .feasible ∨ l.validation = .partial_) ∧ ∀ x ∈ l.entries, x.Matches docks → ∀ k v, (k, v) ∈ x.targets →
    ∀ a ∈ (docks.get x.dock).axes, a.kind = k → ∀ e, (docks.get x.dock).geometry = some e → a.Meets e v

/-! ### What a command leaves behind -/

/-- A subject is pending. -/
def Cabin.Pends (c : Cabin) (x : Subject) : Prop := x ∈ c.notices.map (·.subject)

/-- The first failure of an order, where it had none and no cancel has been taken (R95). -/
def Cabin.FirstFails (c : Cabin) (o : Order) (f : FirstFailure) : Prop :=
  o.firstFailure = none → o.cancelTaken = false → ∃ o', c.pool.recs.get o.slot = some o' ∧ o'.firstFailure = some f

/-- The non-terminal step of lowest place in the step list of an order for a dock (R22). -/
def Order.leaves? (o : Order) (d : Dock) : Option Step := o.steps.find? fun x => x.dock = d && !x.state.terminal

/-- Every order with a step of a dock still to run fails by it for a reason (R22). -/
def Cabin.DockFails (c c' : Cabin) (d : Dock) (why : Reason) : Prop :=
  ∀ o ∈ c.activeOrders, ∀ x, o.leaves? d = some x → c'.FirstFails o ⟨d, x.axis, why, false⟩

end Sys2Proof.Machine

/-! ### Requests as they arrive, and which commands touch what -/

namespace Sys2Proof

open Machine

/-- R58 check 3: contents that are well formed. -/
structure RawContents.WellFormed (r : RawContents) : Prop where
  label : 1 ≤ r.label.length ∧ r.label.length ≤ 12 ∧ ∀ x ∈ r.label, labelChar x = true
  owner : r.owner ≤ 4
  urgency : r.urgency ≤ 1
  count : 1 ≤ r.entries.length ∧ r.entries.length ≤ 5
  docks : (r.entries.map (·.dock)).Nodup
  entry : ∀ e ∈ r.entries, (1 ≤ e.dock ∧ e.dock ≤ 5) ∧ e.kind ≤ 3 ∧ e.targets.length ≤ 4 ∧ (e.targets.map (·.1)).Nodup
  axes : ∀ e ∈ r.entries, ∀ p ∈ e.targets, ∃ k, AxisKind.ofCode? p.1 = some k ∧
    (e.kind = 3 ∨ ∃ u, UnitKind.ofCode? e.kind = some u ∧ k ∈ u.axes)

/-- R31: a cell list, of 0 to 24 relative cells in range without duplicates. -/
structure CellListFormed (l : List RelCell) : Prop where
  count : l.length ≤ 24
  once : l.Nodup
  range : ∀ c ∈ l, (-1 ≤ c.lane ∧ c.lane ≤ 1) ∧ c.col ≤ 5 ∧ c.tier ≤ 5

/-- R31: a station table, of 2 to 8 stations whose boundaries rise strictly from 0 to at most 999 permille. -/
structure StationTableFormed (t : List Station) : Prop where
  count : 2 ≤ t.length ∧ t.length ≤ 8
  first : (t.head?.map (·.boundary)) = some 0
  rising : (t.map (·.boundary)).Pairwise (· < ·)
  last : ∀ x ∈ t, x.boundary ≤ 999
  cells : ∀ x ∈ t, CellListFormed x.cells

/-- R31 check 3: every field within the limits of the table, every table the kind requires present, and none that the kind does not
have. -/
structure RawGeometry.WellFormed (g : RawGeometry) (k : UnitKind) : Prop where
  reach : if k = .third then g.reach = none else ∃ mm, g.reach = some mm ∧ mm ≤ 1000
  base : ∃ t, g.base = some t ∧ StationTableFormed t
  recline : ∃ t, g.recline = some t ∧ StationTableFormed t
  headrest : if k = .centre then g.headrest = none else ∃ t, g.headrest = some t ∧ StationTableFormed t
  fixed : ∃ l, g.fixed = some l ∧ CellListFormed l

/-- R31: the entry that a write of contents makes: its key, and the contents as received; a headrest table has no flags. -/
structure RawGeometry.Makes (g : RawGeometry) (k : UnitKind) (revision : Nat) (e : GeomEntry) : Prop where
  key : e.kind = k ∧ e.revision = revision
  reach : e.reach = g.reach
  base : g.base = some e.base
  recline : g.recline = some e.recline
  headrest : e.headrest = g.headrest.map fun t => t.map fun x => ⟨x.boundary, x.cells, false⟩
  fixed : g.fixed = some e.fixed

/-- R33: a placement in range: home lane L, C or R, origin column 0 to 15, mirror flag, allowed kind CAPTAIN, CENTRE or THIRD. -/
structure RawPlacement.WellFormed (r : RawPlacement) : Prop where
  lane : r.lane ≤ 2
  origin : r.origin ≤ 15
  mirror : r.mirror ≤ 1
  kind : r.kind ≤ 2

/-- R33: the placement that a received one makes. -/
structure RawPlacement.Makes (r : RawPlacement) (p : Placement) : Prop where
  lane : p.lane.num = r.lane
  origin : p.origin = r.origin
  mirror : p.mirror = true ↔ r.mirror = 1
  kind : p.kind.code = r.kind

/-- R166: a binding that keeps to the table. The gestures TAP, FLICK_FWD, FLICK_REAR, SWIPE_HOLD and the actions INVOKE, TOGGLE, JOG have
codes from 0 in the table's order (R181): a zone for TAP alone; INVOKE of a layout 1 to 24 or TOGGLE of a dock 1 to 5 for the first three;
JOG of a dock for SWIPE_HOLD. -/
structure RawBinding.WellFormed (b : RawBinding) : Prop where
  gesture : b.gesture ≤ 3
  zone : if b.gesture = 0 then ∃ z, b.zone = some z ∧ z ≤ 3 else b.zone = none
  action : if b.gesture = 3 then b.action = 2 ∧ 1 ≤ b.arg ∧ b.arg ≤ 5
    else b.action = 0 ∧ 1 ≤ b.arg ∧ b.arg ≤ 24 ∨ b.action = 1 ∧ 1 ≤ b.arg ∧ b.arg ≤ 5

/-- R166: the binding that a received one makes. -/
structure RawBinding.Makes (b : RawBinding) (x : Binding) : Prop where
  gesture : [Gesture.tap, .flickFwd, .flickRear, .swipeHold][b.gesture]? = some x.gesture
  zone : x.zone = b.zone
  action : match x.action with
    | .invoke n => b.action = 0 ∧ n = b.arg
    | .toggle d => b.action = 1 ∧ d.num = b.arg
    | .jog d => b.action = 2 ∧ d.num = b.arg

/-- The commands that load everything anew (R179, R180). -/
def Instr.resets : Instr → Bool
  | .powerOn _ | .softResetCompletion _ => true
  | _ => false

/-- The requests that write a settings record (section 10.6). -/
def Instr.writesSettings : Instr → Bool
  | .writeGeometry _ _ _ _ | .writeDockTable _ _ | .setOverride _ _ _ _ _ | .setBudget _ _ | .setLimits _ _
  | .writeBindings _ _ => true
  | _ => false

/-- The completions of a write of the store (R70, R177). -/
def Instr.endsWrite : Instr → Bool
  | .layoutWriteComplete _ | .settingsWriteComplete _ => true
  | _ => false

/-- The events of a latch line (R2). -/
def Instr.movesLatch : Instr → Bool
  | .latchClosed _ | .latchOpen _ _ | .latchWake _ _ _ => true
  | _ => false

end Sys2Proof
end

