-- ==== Sys2Proof/Certificates/Slice0/Obligations.lean ====
section
/-! DEFINITION. The statements for the provers. Each docstring names the rules a statement formalises; where a clause rests on
the model's own choice it names the log entry. -/

open Sys2Proof Sys2Proof.Machine

/-! ### The machine -/

/-- A step takes the command at the front of the queue, with the queue's rest. -/
def Obligations.StepRunsTheFrontCommand : Prop :=
  ∀ (c : Instr) (rest : List Instr) (s : State), s.pending = c :: rest → step s = exec c { s with pending := rest }

/-- With no command waiting a millisecond passes: the clock advances by 1, and the commands queued are those of the timers that
have come to their moments, of a slot whose answer limit has passed, of the poll period boundary, of the store's next write and of a
reset that waits for the store; no other command is queued, and nothing else changes. The model's own choice (log 6). -/
def Obligations.AnEmptyQueueLetsAMillisecondPass : Prop :=
  ∀ s : State, s.pending = [] → ∃ t, step s = .next t ∧ t.cab = { s.cab with now := s.cab.now + 1 } ∧
    t.port = { s.port with tx := [] } ∧ t.link = { s.link with tx := [] } ∧ t.pad = s.pad ∧ t.store = s.store ∧
    t.latchA = s.latchA ∧ t.latchB = s.latchB ∧ t.intrusion = s.intrusion ∧
    let due (k : Timer) : Prop := ∃ n, k = some n ∧ n ≤ s.cab.now + 1
    let mayWrite : Prop := s.port.resetting = false ∧ s.store.writing = none ∧ s.port.power ≠ .sleep
    ∀ i, i ∈ t.pending ↔ match i with
      | .vehicleStateStale => due s.port.fresh
      | .intrusionStale => due s.intrusion
      | .quietTimerExpiry => due s.port.quiet
      | .pauseGraceExpiry => due s.cab.pool.grace
      | .settleExpiry d => due (s.cab.dock d).settle
      | .powerUpDelayExpiry d => due (s.cab.dock d).powerUp
      | .pageLimitExpiry d => due (s.cab.dock d).pageLimit
      | .silenceExpiry d => due (s.cab.dock d).silence
      | .holdExpiry d => due (s.cab.dock d).hold
      | .startWindowExpiry d => due (s.cab.arb.window.get d)
      | .grantWaitExpiry d => ∃ q, s.cab.arb.requests.get d = some q ∧ q.wait ≤ s.cab.now + 1
      | .stallTimerExpiry d => ∃ a m, s.cab.driven? d = some (a, m) ∧ due m.stall
      | .streamTimerExpiry d => due (s.cab.streams.get d)
      | .referenceSuppressionExpiry d k => ∃ a ∈ (s.cab.dock d).axes, a.kind = k ∧ due a.suppression
      | .presenceSuppressionExpiry (.seat d ch) => ∃ x ∈ (s.cab.dock d).chans, x.kind = ch.kind ∧ due x.suppression
      | .presenceSuppressionExpiry (.strip e) => ∃ x, s.pad.electrodes[e.val]? = some x ∧ due x.suppression
      | .blockWaitExpiry slot n => ∃ o ∈ s.cab.activeOrders, o.slot = slot ∧ ∃ x ∈ o.steps, x.index = n ∧
          ∃ k, x.waitStart = some k ∧ k + s.cab.set.limits.blockWait * 1000 ≤ s.cab.now + 1
      | .dockPollUnanswered d => s.link.left.head? = some (.dock d) ∧ due s.link.answerBy
      | .padPollUnanswered => s.link.left.head? = some .pad ∧ due s.link.answerBy
      | .pollRound => s.port.power ≠ .sleep ∧ s.link.boundary ≤ s.cab.now + 1
      | .softResetCompletion failing => failing = [] ∧ s.port.resetting = true ∧ s.store.writing = none
      | .settingsWriteBegin => mayWrite ∧ s.store.due ≠ []
      | .layoutWriteBegin => mayWrite ∧ s.store.due = [] ∧ s.cab.layouts.dirty ≠ []
      | _ => False

/-- Every command ends in a next state (one that the state makes impossible too, log 7), leaves the queue of commands alone (a reset
too, log 39), and, unless it is an event of a latch line, the latch lines as they read (R2). -/
def Obligations.EveryCommandCompletes : Prop :=
  ∀ (c : Instr) (s : State), ∃ t, exec c s = .next t ∧ t.pending = s.pending ∧
    (c.movesLatch = false → t.latchA = s.latchA ∧ t.latchB = s.latchB)

/-- Whole-machine rule: no command but a reset and the six settings requests changes a setting in force or an envelope, and
none but a reset and the completion of a write changes what the store's memory holds (R31, R33, R102, R120, R166, R177,
R178). -/
def Obligations.SettingsChangeByWritesAlone : Prop :=
  ∀ (c : Instr) (s t : State), exec c s = .next t → c.resets = false →
    (c.writesSettings = false → t.cab.set = s.cab.set ∧ t.cab.envelopes = s.cab.envelopes) ∧
    (c.endsWrite = false → t.store.nv = s.store.nv)

/-! ### Invariants that every step keeps -/

/-- R25: 288 cells, each with at most one holder, and a cell on a holder's overlap list is held by another holder. -/
def Obligations.EveryStepKeepsTheMapSound : Prop :=
  ∀ s t : State, s.cab.map.Sound → step s = .next t → t.cab.map.Sound

/-- R106: the sum of grants held never exceeds the effective budget. -/
def Obligations.EveryStepKeepsGrantsWithinTheBudget : Prop :=
  ∀ s t : State, s.cab.arb.Fits → step s = .next t → t.cab.arb.Fits

/-- R74, R75, R76: each slot lies on exactly one of the two lists, a record stands in the slot it names, an active slot has a
record, no two active orders share a number, and the next number is 1 to 65535. -/
def Obligations.EveryStepKeepsTheOrderPool : Prop :=
  ∀ s t : State, s.cab.pool.Parted → s.cab.pool.Named → s.cab.pool.Numbered → step s = .next t →
    t.cab.pool.Parted ∧ t.cab.pool.Named ∧ t.cab.pool.Numbered

/-- R50, R52, R69: live numbers rise within 1 to 24, records 1 to 6 are live, labels are unique, and the dirty set holds numbers of
1 to 24 without duplicates. -/
def Obligations.EveryStepKeepsTheLayoutTable : Prop :=
  ∀ s t : State, s.cab.layouts.Sound → step s = .next t → t.cab.layouts.Sound

/-- R175, R176: the quiet timer runs in AWAKE exactly while the quiet condition holds, and the part does not stay out of SLEEP
while the sleep-held flag is set and the condition for SLEEP holds; that the flag is clear in SLEEP is log 22. -/
def Obligations.EveryStepKeepsThePowerState : Prop :=
  ∀ s t : State, s.HeldRightly → s.QuietRightly → step s = .next t → t.HeldRightly ∧ t.QuietRightly

/-- R170, R172: at most 8 responses wait, and no subject is pending twice. -/
def Obligations.EveryStepKeepsTheQueuesInBounds : Prop :=
  ∀ s t : State, step s = .next t →
    (s.port.Bounded → t.port.Bounded) ∧ (NoticesOnce s.cab.notices → NoticesOnce t.cab.notices)

/-- What the invariants say holds of the part just after reset, on a store as delivered (log 1) and with the latch lines open (log
4). -/
def Obligations.ResetIsSafe : Prop :=
  State.reset.cab.Safe ∧ State.reset.port.Bounded ∧ State.reset.HeldRightly ∧ State.reset.QuietRightly

/-! ### Resets -/

/-- R179, R71: POWER_ON loads everything from the store. The settings and layouts are as the store loads them: a settings record
whose check fails takes its default, is due and RESTORED; a layout position keeps its stored record where its check and the
content checks of R58 pass and no lower number keeps the label; else a FACTORY one is its built-in default, generation 1, PENDING,
dirty and RESTORED, and a USER one free, and, unless it is sound and empty, dirty and LOST. A restored label that a kept FACTORY
record has restores all six, and a kept USER record with a restored label is freed, dirty and LOST. Every block is at its state
after power-on, the docks whose latches both read closed are SEATING with origin FRESH and hold their envelopes, a cell that
several envelopes share going to the lowest dock (log 47; an envelope of more than 96 cells is as it is, log 86), the clock is 0
(log 39) and the records whose stored copies fail stay failing (log 29; a stored FACTORY record with the label of a restored one
log 78), the first period boundary a period away (log 10); SOFT_RESET_COMPLETION does the same once a reset waits and no write
runs (R180), and nothing before. -/
def Obligations.PowerOnLoadsEverything : Prop :=
  (∀ (failing : List RecId) (s : State), ∃ t nv, exec (.powerOn failing) s = .next t ∧
    (∀ r, r ∈ nv.bad ↔ r ∈ s.store.nv.bad ∨ r ∈ failing) ∧ { nv with bad := s.store.nv.bad } = s.store.nv ∧
    t.store = bootStore nv nv.badSettings ∧ t.cab.set = nv.loadSettings ∧
    t.cab.envelopes = envelopes nv.loadSettings.geometry nv.loadSettings.dockTable ∧
    t.cab.layouts = loadedTable nv.loadLayouts ∧ t.cab.pool = emptyPool ∧ t.cab.arb = emptyArbiter ∧ t.cab.now = 0 ∧
    t.cab.streams = .rep none ∧ t.cab.jog = none ∧ t.pad = bootPad ∧ t.link = bootLink ∧ t.intrusion = some 1000 ∧
    { t.port with quiet := bootPort.quiet } = bootPort ∧
    (∀ d, if s.latchA.get d && s.latchB.get d then
        (t.cab.dock d).state = .seating ∧ (t.cab.dock d).origin = some .fresh ∧ (t.cab.dock d).settle = some 200 ∧
          (t.cab.dock d).lamp = .on ∧ (t.cab.dock d).power = false ∧ t.cab.Pends (.dock d)
      else t.cab.dock d = emptyDock) ∧
    (∀ x, t.cab.map.holderOf x =
      (Dock.all.find? fun d => s.latchA.get d && s.latchB.get d && (t.cab.envelopes.get d).mem x).map Holder.dock) ∧
    ∀ n ∈ loadNotices nv.badSettings nv.loadLayouts, n ∈ t.cab.notices) ∧
  (∀ nv : Nonvolatile,
    let table := loadedTable nv.loadLayouts
    let told := loadNotices nv.badSettings nv.loadLayouts
    (∀ i, (nv.loadSettings.copyOf i = if RecId.settings i ∈ nv.bad then defaultSettings.copyOf i else nv.settings.copyOf i) ∧
      (i ∈ nv.badSettings ↔ RecId.settings i ∈ nv.bad) ∧
      (RecId.settings i ∈ nv.bad → ⟨.store (.settings i), some .restored⟩ ∈ told)) ∧
    let stored (n : Nat) : Option StoredLayout := nv.layouts.find? fun x => x.number = n
    let sound (n : Nat) (x : StoredLayout) : Prop := RecId.layout n ∉ nv.bad ∧ stored n = some x ∧ x.contents.WellFormed ∧
      (n ≤ 6 → x.contents.owner = 0)
    ∃ keeps : Nat → Prop,
      (∀ n, 1 ≤ n → n ≤ 24 → (keeps n ↔ ∃ x, sound n x ∧
        ∀ m y, 1 ≤ m → m < n → keeps m → stored m = some y → y.contents.label ≠ x.contents.label)) ∧
      let builtIn (n : Nat) (label : List Nat) : Prop := ∃ r, factoryRecord n .pending = some r ∧ r.label = label
      let clash : Prop := ∃ m n x, 1 ≤ m ∧ m ≤ 6 ∧ ¬ keeps m ∧ 1 ≤ n ∧ n ≤ 6 ∧ keeps n ∧ stored n = some x ∧
        builtIn m x.contents.label
      let restores (n : Nat) : Prop := 1 ≤ n ∧ n ≤ 6 ∧ (¬ keeps n ∨ clash)
      let clashes (n : Nat) : Prop := ∃ x m, stored n = some x ∧ restores m ∧ builtIn m x.contents.label
      ∀ n, 1 ≤ n → n ≤ 24 →
        let stands : Prop := n ∉ table.dirty ∧ ∃ x k r, stored n = some x ∧ contentsOf? x.contents = some k ∧ r ∈ table.live ∧
          r.number = n ∧ r.label = x.contents.label ∧ r.owner = x.contents.owner ∧ r.urgency.code = x.contents.urgency ∧
          r.entries = k.entries ∧ r.generation = x.generation ∧ r.store = .stored ∧ r.validation = .noMatch
        let free : Prop := ∀ r ∈ table.live, r.number ≠ n
        let lost : Prop := free ∧ n ∈ table.dirty ∧ ⟨.store (.layout n), some .lost⟩ ∈ told
        (restores n → n ∈ table.dirty ∧ ⟨.store (.layout n), some .restored⟩ ∈ told ∧
          ∃ r, factoryRecord n .pending = some r ∧ r ∈ table.live ∧ r.number = n ∧ r.generation = 1 ∧ r.store = .pending ∧
            r.validation = .noMatch) ∧
        (n ≤ 6 → ¬ restores n → stands) ∧
        (7 ≤ n → keeps n → ¬ clashes n → stands) ∧
        (7 ≤ n → keeps n → clashes n → lost) ∧
        (7 ≤ n → ¬ keeps n → RecId.layout n ∉ nv.bad → stored n = none → free ∧ n ∉ table.dirty) ∧
        (7 ≤ n → ¬ keeps n → RecId.layout n ∈ nv.bad ∨ stored n ≠ none → lost)) ∧
  ∀ (failing : List RecId) (s : State),
    (s.port.resetting = true → s.store.writing = none →
      exec (.softResetCompletion failing) s = exec (.powerOn failing) s) ∧
    (s.port.resetting = false ∨ s.store.writing.isSome = true →
      exec (.softResetCompletion failing) s = .next s.quietWires)

/-- R180: SOFT_RESET from SERVICE queues its OK, sends the queued responses and leaves the reset waiting for the store; any
other class is answered REFUSED_ACCESS and nothing changes; while the reset waits a CANCEL_ALL is answered BUSY and not taken. -/
def Obligations.SoftResetWaitsForTheStore : Prop :=
  ∀ (h : ReqHdr) (s : State) (b : IdentBinding), s.Takes h b →
    (b.cls = .service → ∃ t, exec (.softReset h) s = .next t ∧ t.port.resetting = true ∧ t.port.queue = [] ∧
      t.port.lost = 0 ∧
      t.port.tx = State.responseFrames s.port.lost
        (s.port.queue ++ [⟨b.response, 23, h.tag, .ok, none, s.port.restarted, []⟩]) ∧
      t.cab = s.cab ∧ t.store = s.store ∧ t.pad = s.pad ∧
      ∀ (h' : ReqHdr) (b' : IdentBinding), t.port.power ≠ .sleep → t.cab.set.identifiers.binding? h'.ident = some b' →
        ∃ u, exec (.cancelAll h') t = .next u ∧ u.cab = t.cab ∧ t.Answered u b' 10 h' (refuse .busy)) ∧
    (b.cls ≠ .service → ∃ t, exec (.softReset h) s = .next t ∧ s.OnlyAnswers t b 23 h (refuse .refusedAccess))

/-! ### Seat Link frames and pages (R181, section 11.5) -/

/-- A status frame as its node sends it is taken as it was meant, by the dock or the pad it is from and by no other: every count,
the current, the fault flags, the switches and the raw counts (R14, R161, R181; raw counts above 4095 are left out, log 20; the
frame kind of a status frame is log 68). A request frame as a requester sends it, for every request whose arguments fit their
fields, is read as that request (R170, R181, R182; the places of the arguments are log 58, the kind codes log 13), and joins the
queue as that command where it stands on a binding's request identifier, the part is not in SLEEP and fewer than 8 responses wait;
with 8 waiting it is discarded. -/
def Obligations.StatusFramesRoundTrip : Prop :=
  (∀ (d : Dock) (c0 c1 c2 c3 current faults r0 r1 r2 : Nat) (sw : Switches),
    c0 ≤ 65535 → c1 ≤ 65535 → c2 ≤ 65535 → c3 ≤ 65535 → current ≤ 65535 → faults ≤ 7 →
    r0 ≤ 4095 → r1 ≤ 4095 → r2 ≤ 4095 →
    let frame := encodeStatus d [c0, c1, c2, c3] current faults sw [r0, r1, r2]
    decodeStatus d frame = some ⟨[c0, c1, c2, c3], current, faults != 0, sw, [r0, r1, r2]⟩ ∧
      (∀ e, e ≠ d → decodeStatus e frame = none) ∧ decodePad frame = none) ∧
  (∀ r0 r1 r2 r3 : Nat, r0 ≤ 4095 → r1 ≤ 4095 → r2 ≤ 4095 → r3 ≤ 4095 →
    decodePad (encodePad [r0, r1, r2, r3]) = some [r0, r1, r2, r3] ∧ ∀ d, decodeStatus d (encodePad [r0, r1, r2, r3]) = none) ∧
  ∀ i : Instr, carried i = true → ∃ h f, headerOf? i = some h ∧ requestFrame? i = some f ∧ f.ident = h.ident ∧
    decodeRequest f.ident f.bytes = i ∧
    ∀ s : State, s.port.power ≠ .sleep → (s.cab.set.identifiers.binding? h.ident).isSome = true →
      (s.port.queue.length < 8 → (s.hear f).pending = s.pending ++ [i]) ∧
      (8 ≤ s.port.queue.length → (s.hear f).pending = s.pending ++ [.requestDiscarded h])

/-- A node page as its node sends it passes the first check of R17 with every field as it was meant: BASE, AXIS and ACKNOWLEDGE, with
every field at every value it has room for; and no other dock takes it for its own. -/
def Obligations.NodePagesRoundTrip : Prop :=
  ∀ (d : Dock) (toggle ack more : Bool),
    (∀ (k : UnitKind) (rev serial axes : Nat) (cushion back lid trust : Bool), rev ≤ 255 → serial < 4294967296 → axes ≤ 255 →
      let chans := (if cushion then [Channel.cushion] else []) ++ (if back then [Channel.back] else []) ++
        (if lid then [Channel.lid] else [])
      let p : NodePage := ⟨toggle, ack, more, .base ⟨k, rev, serial, axes, chans, trust⟩⟩
      decodePage d (encodePage d p) = some p ∧ ∀ e, e ≠ d → decodePage e (encodePage d p) = none) ∧
    (∀ a : AxisPage, a.travel ≤ 65535 → a.pitch ≤ 255 → a.rated ≤ 255 → a.maxSpeed ≤ 65535 → a.nominal ≤ 65535 →
      a.stallThreshold ≤ 65535 → a.stored ≤ 65535 →
      decodePage d (encodePage d ⟨toggle, ack, more, .axis a⟩) = some ⟨toggle, ack, more, .axis a⟩ ∧
        ∀ e, e ≠ d → decodePage e (encodePage d ⟨toggle, ack, more, .axis a⟩) = none) ∧
    (decodePage d (encodePage d ⟨toggle, ack, more, .acknowledge⟩) = some ⟨toggle, ack, more, .acknowledge⟩ ∧
      ∀ e, e ≠ d → decodePage e (encodePage d ⟨toggle, ack, more, .acknowledge⟩) = none)

/-! ### The map operations (R26 to R30) -/

/-- R26, the whole rule: what an install of `S` by `h` does to each cell, by how it stood before (a cell that was FREE or held by
`h` is held by it and not on its overlap list); everything else stands. -/
def Obligations.InstallPlacesEveryCell : Prop :=
  ∀ (m : CellMap) (h : Holder) (S : CellSet), m.Sound →
    let m' := m.install h S
    (∀ x, S.mem x = true → m.holderOf x = none → m'.holderOf x = some h ∧ (m'.listed.get h).mem x = false) ∧
    (∀ x, S.mem x = true → m.holderOf x = some h → m'.holderOf x = some h ∧ (m'.listed.get h).mem x = false) ∧
    (∀ x, (m.listed.get h).mem x = true → (m'.listed.get h).mem x = true ∧ m'.holderOf x = m.holderOf x) ∧
    (∀ x g, S.mem x = true → m.holderOf x = some g → g ≠ h → (m'.listed.get h).mem x = true ∧ m'.holderOf x = some g) ∧
    (∀ x, S.mem x = false → m'.holderOf x = m.holderOf x ∧ (m'.listed.get h).mem x = (m.listed.get h).mem x) ∧
    (∀ g, g ≠ h → m'.listed.get g = m.listed.get g) ∧ m'.reserved = m.reserved ∧
    (S = .empty → m' = m)

/-- R27, the whole rule: a claim takes all of `S` or none of it; on failure the blocker is the lowest-numbered holder of a cell that is
held by another and not listed by the claimant. -/
def Obligations.ClaimTakesAllOrNothing : Prop :=
  ∀ (m : CellMap) (d : Dock) (S : CellSet), m.Sound →
    let stops (x : Cell) (g : Holder) : Prop :=
      S.mem x = true ∧ m.holderOf x = some g ∧ g ≠ .dock d ∧ (m.listed.get (.dock d)).mem x = false
    ((∀ x g, ¬ stops x g) → ∃ m', m.claim d S = .ok m' ∧
      (∀ x, m'.holderOf x = if S.mem x && (m.holderOf x).isNone then some (.dock d) else m.holderOf x) ∧
      m'.listed = m.listed ∧ m'.reserved = m.reserved.set d (some S)) ∧
    (∀ x g, stops x g → (∀ y k, stops y k → g.num ≤ k.num) → m.claim d S = .error g) ∧
    (S = .empty → ∃ m', m.claim d S = .ok m')

/-- R28, R29 with the hand-off of R30: a trim drops the cells held outside `K`, each to the lowest-numbered other lister, who no
longer lists it, or to nobody; the holder lists nothing outside `K`; a cell of `K` neither held nor listed is not taken; an
install of `S` followed by a trim to `S` leaves the holder with every cell of `S` held or listed, and nothing else; a release is a
trim to nothing that also removes the dock's reservation. -/
def Obligations.TrimAndReleaseHandOn : Prop :=
  ∀ (m : CellMap), m.Sound →
    let hands (h : Holder) (K : CellSet) (m' : CellMap) : Prop :=
      (∀ x, m.holderOf x = some h → K.mem x = false →
        (∀ g, (m.listed.get g).mem x = true → (∀ k, (m.listed.get k).mem x = true → g.num ≤ k.num) →
          m'.holderOf x = some g ∧ (m'.listed.get g).mem x = false ∧
            ∀ k, k ≠ g → (m'.listed.get k).mem x = (m.listed.get k).mem x) ∧
        ((∀ g, (m.listed.get g).mem x = false) → m'.holderOf x = none)) ∧
      (∀ x, m.holderOf x ≠ some h ∨ K.mem x = true → m'.holderOf x = m.holderOf x ∧
        ∀ k, k ≠ h → (m'.listed.get k).mem x = (m.listed.get k).mem x) ∧
      (∀ x, (m'.listed.get h).mem x = ((m.listed.get h).mem x && K.mem x))
    (∀ h K, hands h K (m.trim h K) ∧ (m.trim h K).reserved = m.reserved) ∧
    (∀ h S x, let m' := (m.install h S).trim h S
      (S.mem x = true → m.holderOf x = none ∨ m.holderOf x = some h → m'.holderOf x = some h) ∧
      (∀ g, S.mem x = true → m.holderOf x = some g → g ≠ h → (m'.listed.get h).mem x = true) ∧
      (S.mem x = false → m'.holderOf x ≠ some h ∧ (m'.listed.get h).mem x = false)) ∧
    ∀ d, hands (.dock d) .empty (m.release d) ∧ (m.release d).reserved = m.reserved.set d none ∧
      ∀ x, (m.release d).holderOf x ≠ some (.dock d) ∧ ((m.release d).listed.get (.dock d)).mem x = false

/-! ### Positions, targets and moves -/

/-- R35: a position's station is the largest one whose boundary is at most its permille, every position falls in one, and the end
of travel lies in the last. -/
def Obligations.StationIsTheLargestReached : Prop :=
  ∀ (t : List Station) (T p : Nat), tableOk t = true → 0 < T →
    (∃ x, t[stationOf t T p]? = some x ∧ x.boundary ≤ p * 1000 / T) ∧
    (∀ (i : Nat) (x : Station), t[i]? = some x → stationOf t T p < i → p * 1000 / T < x.boundary) ∧
    stationOf t T T = t.length - 1

/-- R80: the target count of a station between the first and the last is the first count that R35 places in it; the last station
is at the end of travel, station 0 at 0, and a slide target at its millimetres. R36 to R40: the footprint of a dock is the cells
its unit covers with every axis at its count, or anywhere where the count is not believed (DockRec.Covers, Axis.MayStand; a
DISABLED axis at its count, log 46); the sweep of a move takes the axis through the stations or shifts between two counts, the
full-travel sweep through all of them, and a sweep holds the footprint at every count between its two. -/
def Obligations.StationTargetIsItsFirstCount : Prop :=
  (∀ (a : Axis) (e : GeomEntry), 16 ≤ a.travel →
    (a.kind ≠ .slide → tableOk (e.table a.kind) = true → boundariesApart (e.table a.kind) a.travel = true →
      a.targetCount e 0 = 0 ∧ a.targetCount e (e.lastStation a.kind) = a.travel ∧
      ∀ i, i ≤ e.lastStation a.kind → a.stationAt e (a.targetCount e i) = i ∧
        (i < e.lastStation a.kind → ∀ p, p < a.targetCount e i → a.stationAt e p < i)) ∧
    (a.kind = .slide → ∀ m, a.targetCount e m ≤ a.travel ∧
      (a.targetCount e m < a.travel → m * a.pitch ≤ 10 * a.targetCount e m ∧ 10 * a.targetCount e m < m * a.pitch + 10) ∧
      (a.targetCount e m = a.travel → 10 * a.travel < m * a.pitch + 10))) ∧
  ∀ r : DockRec, (r.axes.map (·.kind)).Nodup →
    let stands (b : Axis) (e : GeomEntry) (j : Nat) : Prop := b.MayStand e b.count b.count j
    (∀ x, r.footprint.mem x = true ↔ r.Covers stands x) ∧
    ∀ a ∈ r.axes, ∀ x,
      (∀ p q, (r.sweep a.kind p q).mem x = true ↔
        r.Covers (fun b e j => (b.kind = a.kind → b.MayStand e p q j) ∧ (b.kind ≠ a.kind → stands b e j)) x) ∧
      ((r.fullSweep a.kind).mem x = true ↔
        r.Covers (fun b e j => (b.kind = a.kind → b.Anywhere e j) ∧ (b.kind ≠ a.kind → stands b e j)) x) ∧
      ∀ p q n, min p q ≤ n → n ≤ max p q →
        let moved : DockRec := { r with axes := r.axes.map fun (b : Axis) => if b.kind = a.kind then { b with count := n } else b }
        moved.footprint.mem x = true → (r.sweep a.kind p q).mem x = true

/-- R122: the four segments of a move from the ramp and creep in force, whose lengths sum to the distance; a HOMING move is creep
throughout. -/
def Obligations.SegmentsSumToTheDistance : Prop :=
  ∀ (l : Limits) (p : Profile) (a : Axis) (r : StepRef) (k : StepKind) (target : Nat),
    let m := newMove l p a r k target
    m.distance = absDiff target a.count ∧ m.creepEff = min p.creep m.distance ∧ m.rem = m.distance - m.creepEff ∧
    m.rampEff = min p.ramp (m.rem / 2) ∧ m.cruise = m.rem - 2 * m.rampEff ∧
    m.rampEff + m.cruise + m.rampEff + m.creepEff = m.distance ∧
    (k ≠ .homing → ∀ x, m.segment x = if x < m.rampEff then .rampUp else if x < m.rampEff + m.cruise then .cruise
      else if x < m.rampEff + m.cruise + m.rampEff then .rampDown else .creep) ∧
    (k = .homing → ∀ x, m.segment x = .creep) ∧
    (m.rampEff = 0 → k ≠ .homing → ∀ x, m.segment x = if x < m.cruise then .cruise else .creep) ∧
    (m.rem = 0 → ∀ x, m.segment x = .creep)

/-- R124: the setpoint rises from creep speed to full speed over the ramp-up and falls back over the ramp-down, never leaving the
two; past the target it stays at creep speed. R123, R124, R128: the full speed, halved for a SLIDE whose dock is occupied or
unknown, the creep speed, the setpoint in each segment, and that of a STOPPING ramp-down by what is left of its stop length (that
an axis pushed back has more left than the stop length is log 71). -/
def Obligations.SetpointStaysBetweenCreepAndFull : Prop :=
  (∀ (l : Limits) (p : Profile) (a : Axis) (r : StepRef) (k : StepKind) (target vmax vc : Nat), k ≠ .homing → vc ≤ vmax →
    let m := newMove l p a r k target
    (∀ x, vc ≤ m.setpointAt vmax vc x ∧ m.setpointAt vmax vc x ≤ vmax) ∧
    (0 < m.rampEff → m.setpointAt vmax vc 0 = vc ∧ m.setpointAt vmax vc (m.rampEff + m.cruise) = vmax ∧
      m.setpointAt vmax vc (m.rem - 1) = vc + (vmax - vc) / m.rampEff) ∧
    (∀ x y, x ≤ y → y < m.rampEff → m.setpointAt vmax vc x ≤ m.setpointAt vmax vc y) ∧
    (∀ x y, m.rampEff + m.cruise ≤ x → x ≤ y → m.setpointAt vmax vc y ≤ m.setpointAt vmax vc x) ∧
    (∀ x, m.distance ≤ x → m.setpointAt vmax vc x = vc)) ∧
  (∀ (m : Move) (vmax vc x : Nat),
    (m.kind = .homing ∨ m.rem ≤ x ∧ m.rampEff + m.cruise ≤ x ∧ m.rampEff ≤ x → m.setpointAt vmax vc x = vc) ∧
    (m.kind ≠ .homing → x < m.rampEff → m.setpointAt vmax vc x = vc + (vmax - vc) * x / m.rampEff) ∧
    (m.kind ≠ .homing → m.rampEff ≤ x → x < m.rampEff + m.cruise → m.setpointAt vmax vc x = vmax) ∧
    (m.kind ≠ .homing → m.rampEff + m.cruise ≤ x → x < m.rem →
      m.setpointAt vmax vc x = vc + (vmax - vc) * (m.rem - x) / m.rampEff)) ∧
  ∀ (c : Cabin) (d : Dock) (a : Axis) (m : Move),
    let o := (c.dock d).occupancy
    let full := m.fullSpeed a.kind o
    let creep := m.creepSpeed a.kind o
    (a.kind = .slide → o ≠ .none → full = m.profile.speed / 2) ∧ (a.kind ≠ .slide ∨ o = .none → full = m.profile.speed) ∧
    creep = full * m.profile.creepSpeed / 100 ∧
    (m.stop = none → c.frameSetpoint d a m = m.setpointAt full creep (max 0 (m.dir.along (a.tracked - m.start))).toNat) ∧
    ∀ plan, m.stop = some plan →
      let z := (plan.length - m.dir.along (a.tracked - plan.origin)).toNat
      (0 < plan.length → creep < plan.setpoint →
        c.frameSetpoint d a m = creep + (plan.setpoint - creep) * z / plan.length) ∧
      (plan.length = 0 ∨ plan.setpoint ≤ creep → c.frameSetpoint d a m = creep)

/-- R45, R115, R116, R117: the change is the signed difference of Hall counts across the wrap, and adding it to the tracked
position moves that by exactly the change, split again into a count within the travel and an overrun outside it. A DRIVEN axis
takes its change at once, a SETTLING one too and becomes IDLE, an IDLE one into its drift, which is applied once it lies beyond 4
counts: manual motion. A change that moves an undriven axis makes POSTURE pending and is reported to the map (R45), which places
its footprint where nothing is reserved for the dock, and else the footprint and the reservation, which is the sweep of the
claimed move computed again, with the waiting claims told where a cell is dropped (R30); where the axis is REFERENCED and its
overrun then exceeds a sixteenth of its travel it enters REFERENCE_FAULT with its overrun set to 0. That the counts of all axes of
a frame are applied first, then the faults, then one install-and-trim of the dock, and that an overrun is tested where a change is
applied, is log 19. -/
def Obligations.ChangesMoveTheTrackedPosition : Prop :=
  (∀ reported node : Nat, reported ≤ 65535 → node ≤ 65535 →
    -32768 ≤ hallChange reported node ∧ hallChange reported node ≤ 32767 ∧
      ((node : Int) + hallChange reported node) % 65536 = reported) ∧
  (∀ (a : Axis) (change : Int), 0 < a.travel → -65535 ≤ a.tracked + change → a.tracked + change ≤ a.travel + 65535 →
    (a.moveBy change).tracked = a.tracked + change ∧ (a.moveBy change).count ≤ a.travel ∧
    ((a.moveBy change).overrun = 0 ∨ (a.moveBy change).count = 0 ∨ (a.moveBy change).count = a.travel) ∧
    { a.moveBy change with count := a.count, overrun := a.overrun } = a) ∧
  (∀ (a : Axis) (reported : Nat),
    let change := hallChange reported a.nodeCount
    let sum := a.drift + change
    (a.cond = .driven → a.takeCount reported = ({ a.moveBy change with nodeCount := reported }, false)) ∧
    (a.cond = .settling →
      a.takeCount reported = ({ a.moveBy change with nodeCount := reported, cond := .idle }, decide (change ≠ 0))) ∧
    (a.cond = .idle → -4 ≤ sum → sum ≤ 4 → a.takeCount reported = ({ a with nodeCount := reported, drift := sum }, false)) ∧
    (a.cond = .idle → sum < -4 ∨ 4 < sum →
      a.takeCount reported = ({ a.moveBy sum with nodeCount := reported, drift := 0 }, true))) ∧
  ∀ (c : Cabin) (d : Dock) (counts : List Nat), ((c.dock d).axes.map (·.kind)).Nodup →
    let t := c.takeCounts d counts
    let taken (i : Nat) (a : Axis) : Axis × Bool := a.takeCount (counts.getD i 0)
    let faulty (b : Axis) : Prop := b.ref = .referenced ∧ b.travel < b.overrun * 16
    (∀ (i : Nat) (a : Axis), (c.dock d).axes[i]? = some a →
      let b := (taken i a).1
      ((taken i a).2 = false ∨ ¬ faulty b → (t.dock d).axes[i]? = some b) ∧
      ((taken i a).2 = true → t.Pends (.posture d)) ∧
      ((taken i a).2 = true → faulty b → ⟨.reference d i, some (.fault b.overrun)⟩ ∈ t.notices ∧
        (t.dock d).axes[i]? = some { b with
          overrun := 0, ref := .referenceFault, faultTime := some c.now, suppression := some (c.now + 30000) })) ∧
    ((∀ (i : Nat) (a : Axis), (c.dock d).axes[i]? = some a → (taken i a).2 = false) →
      t.notices = c.notices ∧ t.map = c.map ∧ t.agenda = c.agenda) ∧
    ((∃ (i : Nat) (a : Axis), (c.dock d).axes[i]? = some a ∧ (taken i a).2 = true) → c.map.reserved.get d = none →
      t.map = (c.map.install (.dock d) (t.dock d).footprint).trim (.dock d) (t.dock d).footprint) ∧
    (∀ R, (∃ (i : Nat) (a : Axis), (c.dock d).axes[i]? = some a ∧ (taken i a).2 = true) → c.map.reserved.get d = some R →
      let places (R' : CellSet) : Prop :=
        let S := (t.dock d).footprint.union R'
        let m := { c.map with reserved := c.map.reserved.set d (some R') }.install (.dock d) S
        t.map = m.trim (.dock d) S ∧
        ((∃ x, m.holderOf x = some (.dock d) ∧ S.mem x = false) → t.agenda = c.agenda ++ [.retryClaims]) ∧
        ((∀ x, m.holderOf x = some (.dock d) → S.mem x = true) → t.agenda = c.agenda)
      (c.claimant? d = none → places R) ∧
      ∀ o x, c.claimant? d = some (o, x) →
        (x.kind = .homing → places ((t.dock d).fullSweep x.axis)) ∧
        (x.kind ≠ .homing → places ((t.dock d).sweep x.axis x.claimFrom x.target))) ∧
    t.pool = c.pool ∧ t.arb = c.arb ∧ ∀ e, e ≠ d → t.dock e = c.dock e

/-- R103: the effective budget by the voltage in force, which is 0 while the vehicle-state frames are not fresh; it never exceeds the
limit, and both are 0 just after reset. -/
def Obligations.EffectiveBudgetFollowsTheVoltage : Prop :=
  (∀ B V : Nat, (120 ≤ V → effectiveBudget B V = B) ∧ (V ≤ 90 → effectiveBudget B V = 0) ∧
    (91 ≤ V → V ≤ 119 → effectiveBudget B V = B * (V - 90) / 30) ∧ effectiveBudget B V ≤ B) ∧
  (∀ p : Port, (p.fresh.isSome = true → p.voltageInForce = p.voltage) ∧ (p.fresh = none → p.voltageInForce = 0)) ∧
  State.reset.port.voltageInForce = 0 ∧ State.reset.cab.arb.budget = 0

/-! ### Presence and the strip -/

/-- R149, R150, R152, R153, R162: an answered frame at a channel, and a run of them. In NONE, PROX or TOUCH a raw count of 4095
makes it FAULT, SATURATED; any other steps the filtered count, in NONE alone the reference too, and there a reference out of the
band begins tuning, which ends the frame for the channel (log 82), or where that is held off sets re-tune due; delta, the four
consecutive counts and the state follow. In FAULT a SATURATED channel counts clean frames and at 6 begins tuning where its
suppression timer is stopped (an electrode of a touched strip is re-tune due instead; none is while the timer runs, log 88);
another saturation clears the count and is the cause. So, with its counts at 0, a channel enters TOUCH or PROX from NONE, and
TOUCH from PROX, at the fourth frame that leaves a delta for it, and leaves TOUCH or PROX at the sixth below its limit, never
sooner: to NONE below both limits, from TOUCH to PROX between them. The channels of a dock take the counts of its frame so, after
its switches and before the motion of its axes (log 25), a band exit held off while a step of the dock is in motion, and a re-tune
that is due begins once none is; the electrodes of the strip theirs, held off while the strip is touched, as judged after the
frame before (R163). -/
def Obligations.ChannelsEnterInFourAndLeaveInSix : Prop :=
  let tuning (x : Chan) : Chan := { x with
    state := .tuning, comp := 512, search := 256, adjusted := 0, proxRise := 0, touchRise := 0, touchFall := 0, proxFall := 0, clean := 0
    fault := none, retune := false }
  let consecutive (limit n : Nat) (holds : Bool) : Nat := if holds then min limit (n + 1) else 0
  (∀ (ch : Chan) (l : Limits) (now : Nat) (hold touched : Bool) (raw : Nat),
    let z := ch.take l now hold touched raw
    let t := l.thresholds ch.kind
    let tracks : Prop := ch.state = .none ∨ ch.state = .prox ∨ ch.state = .touch
    let inBand (n : Nat) : Prop := 800 ≤ n + l.tuningBand / 8 ∧ n ≤ 800 + l.tuningBand / 8
    (tracks → raw = 4095 → z = { ch with
      raw := some raw, state := .fault, fault := some .saturated, proxRise := 0, touchRise := 0, touchFall := 0, proxFall := 0, clean := 0
      retune := false }) ∧
    (∀ F L : Nat, tracks → raw < 4095 → ch.filtered = some F → ch.ref16 = some L → l.presenceFilter ≤ 255 →
      ∃ F' L' : Nat, (F' : Int) = F + ((raw : Int) - F) * l.presenceFilter / 256 ∧
        (ch.state = .none → (L' : Int) = L + ((F' : Int) * 16 - L).tdiv 64) ∧ (ch.state ≠ .none → L' = L) ∧
        let y : Chan := { ch with raw := some raw, filtered := some F', ref16 := some L' }
        let exits : Prop := ch.state = .none ∧ ¬ inBand (L' / 16)
        let delta := L' / 16 - F'
        (exits → hold = false → z = tuning y) ∧
        (¬ exits ∨ hold = true →
          z = { y with
            delta := delta
            proxRise := consecutive 4 ch.proxRise (t.prox ≤ delta)
            touchRise := consecutive 4 ch.touchRise (t.touch ≤ delta)
            touchFall := consecutive 6 ch.touchFall (delta < t.touch - t.hysteresis)
            proxFall := consecutive 6 ch.proxFall (delta < t.prox - t.hysteresis)
            state := z.state, retune := z.retune } ∧
          (z.retune = true ↔ ch.retune = true ∨ exits) ∧
          (ch.state = .none → z.state = if z.touchRise = 4 then .touch else if z.proxRise = 4 then .prox else .none) ∧
          (ch.state = .prox → z.state = if z.touchRise = 4 then .touch else if z.proxFall = 6 then .none else .prox) ∧
          (ch.state = .touch → z.state = if z.proxFall = 6 then .none else if z.touchFall = 6 then .prox else .touch))) ∧
    (ch.state = .fault → raw = 4095 → z = { ch with raw := some raw, clean := 0, fault := some .saturated }) ∧
    (ch.state = .fault → raw < 4095 → ch.fault ≠ some .saturated → z = { ch with raw := some raw }) ∧
    (ch.state = .fault → raw < 4095 → ch.fault = some .saturated →
      let n := min 6 (ch.clean + 1)
      (n < 6 ∨ ch.suppression ≠ none → z = { ch with raw := some raw, clean := n }) ∧
      (n = 6 → ch.suppression = none → touched = false → z = tuning { ch with raw := some raw }) ∧
      (n = 6 → ch.suppression = none → touched = true → z = { ch with raw := some raw, clean := 6, retune := true }))) ∧
  (∀ (ch : Chan) (l : Limits) (now : Nat) (hold touched : Bool) (raws : List Nat), (∀ r ∈ raws, r < 4095) →
    let t := l.thresholds ch.kind
    t.prox < t.touch → t.hysteresis < t.prox →
    ch.proxRise = 0 → ch.touchRise = 0 → ch.touchFall = 0 → ch.proxFall = 0 →
    let after (n : Nat) : Chan := (raws.take n).foldl (fun c r => c.take l now hold touched r) ch
    (∀ n, n ≤ raws.length → (after n).state ≠ .tuning) →
    let each (P : Nat → Prop) : Prop := ∀ n, n < raws.length → P (after (n + 1)).delta
    let stays : Prop := ∀ n, n ≤ raws.length → (after n).state = ch.state
    let becomes (k : Nat) (st : ChanState) : Prop :=
      (∀ n, n < k → n ≤ raws.length → (after n).state = ch.state) ∧ (k ≤ raws.length → (after k).state = st)
    (ch.state = .none →
      (each (fun x => t.touch ≤ x) → becomes 4 .touch) ∧
      (each (fun x => t.prox ≤ x ∧ x < t.touch) → becomes 4 .prox) ∧
      (each (fun x => x < t.prox) → stays)) ∧
    (ch.state = .prox →
      (each (fun x => t.touch ≤ x) → becomes 4 .touch) ∧
      (each (fun x => t.prox - t.hysteresis ≤ x ∧ x < t.touch) → stays) ∧
      (each (fun x => x < t.prox - t.hysteresis) → becomes 6 .none)) ∧
    (ch.state = .touch →
      (each (fun x => t.touch - t.hysteresis ≤ x) → stays) ∧
      (each (fun x => t.prox - t.hysteresis ≤ x ∧ x < t.touch - t.hysteresis) → becomes 6 .prox) ∧
      (each (fun x => x < t.prox - t.hysteresis) → becomes 6 .none))) ∧
  (∀ (c : Cabin) (d : Dock) (raws : List Nat) (ch : Channel),
    ((c.takeRaws d raws).dock d).chan? ch =
      ((c.dock d).chan? ch).map (fun x => x.take c.set.limits c.now (c.inMotion d) false (raws.getD ch.code 0)) ∧
    (c.inMotion d = true → c.retuneDue d = c) ∧
    (c.inMotion d = false →
      ((c.retuneDue d).dock d).chan? ch = ((c.dock d).chan? ch).map fun x => if x.retune = true then tuning x else x)) ∧
  (∀ (c : Cabin) (d : Dock) (sent : MotorCmd) (f : StatusFrame), ∃ c' : Cabin,
    (c'.dock d).chans = (c.dock d).chans ∧ c'.set = c.set ∧ c'.now = c.now ∧ c'.pool = c.pool ∧
    c.statusFrame d sent f = (c'.takeRaws d f.raws).motionFrame d sent f) ∧
  ∀ (s : State) (raws : List Nat) (i : Nat),
    let touched := s.pad.touch.isSome
    (s.takeElectrodes raws).pad.electrodes[i]? =
      (s.pad.electrodes[i]?).map fun x => x.take s.cab.set.limits s.cab.now touched touched (raws.getD i 0)

/-- R154, R155: a tuning takes ten adjusting frames and the check frame, whatever the raw counts: the channel is in TUNING after
each of the first ten, and at the eleventh it is in NONE with its reference at the raw count, or in FAULT with 20 s of
suppression. The search begins at a compensation of 512 and takes the steps 256, 128, 64, 32, 16, 8, 4, 2, 1 and 1: up at a raw
count below 800, down at any other, held to 0 to 1023; an adjusting frame changes nothing else but the raw count noted. -/
def Obligations.TuningTakesElevenFrames : Prop :=
  ∀ (ch : Chan) (l : Limits) (now : Nat) (hold touched : Bool) (raws : List Nat) (last : Nat), raws.length ≤ 10 →
    let run := raws.foldl (fun c r => c.take l now hold touched r) ch.beginTuning
    (run.state = .tuning ∧ run.adjusted = raws.length ∧ run.comp ≤ 1023) ∧ (raws = [] → run.comp = 512) ∧
    (∀ step, [256, 128, 64, 32, 16, 8, 4, 2, 1, 1][raws.length]? = some step →
      let next := run.take l now hold touched last
      (last < 800 → (next.comp : Int) = min 1023 (run.comp + step)) ∧
      (800 ≤ last → (next.comp : Int) = max 0 ((run.comp : Int) - step)) ∧ next.raw = some last ∧
      { next with comp := run.comp, search := run.search, adjusted := run.adjusted, raw := run.raw } = run) ∧
    (raws.length = 10 →
      let done := run.take l now hold touched last
      done.comp = run.comp ∧
      (if 0 < run.comp ∧ run.comp < 1023 ∧ l.inBand last = true then
        done.state = .none ∧ done.filtered = some last ∧ done.reference = last ∧ done.delta = 0 ∧ done.suppression = none
      else done.state = .fault ∧ done.suppression = some (now + 20000) ∧ done.filtered = ch.filtered ∧ done.ref16 = ch.ref16 ∧
        done.fault = some (if run.comp = 0 then .compLow else if 1023 ≤ run.comp then .compHigh else .outOfBand)))

/-- R163, R164, R166, R167, R168, R85: the strip position of four electrodes is floor(255 W / 3 S) where their deltas reach the
touch threshold, a number from 0 to 255, and keeps its value where they do not. A release decides the gesture by the first row of
R164 that applies, and a touched frame of 600 ms and more with a movement of 40 and more is a SWIPE_HOLD. A gesture acts by the
first binding that matches it (a direction is no zone; FORWARD is 0 and REAR 1, log 30): an order of origin CARGO_STRIP with
urgency COMFORT, as INVOKE_LAYOUT, MOVE_AXIS or a JOG would make it, or, where a check of R78, R83 or R85 ends it, a STRIP notice
with its outcome and detail and nothing else (the dock pair of INFEASIBLE as the detail is log 34). A touch of 4000 ms is EXPIRED
(at a frame here, log 40). -/
def Obligations.StripPositionWeighsTheElectrodes : Prop :=
  (∀ (e0 e1 e2 e3 : Chan) (threshold previous : Nat), 0 < threshold →
    let d0 := e0.stripDelta
    let d1 := e1.stripDelta
    let d2 := e2.stripDelta
    let d3 := e3.stripDelta
    let p := stripPosition threshold previous [e0, e1, e2, e3]
    (threshold ≤ d0 + d1 + d2 + d3 → p = 255 * (d1 + 2 * d2 + 3 * d3) / (3 * (d0 + d1 + d2 + d3)) ∧ p ≤ 255) ∧
    (d0 + d1 + d2 + d3 < threshold → p = previous) ∧
    (threshold ≤ d0 → d1 = 0 → d2 = 0 → d3 = 0 → p = 0) ∧ (threshold ≤ d3 → d0 = 0 → d1 = 0 → d2 = 0 → p = 255)) ∧
  let acts (s t : State) (g : Gesture) (zone start : Nat) : Prop :=
    let fits (b : Binding) : Prop := b.gesture = g ∧ (g = .tap → b.zone = some zone)
    ((∀ b ∈ s.cab.set.bindings, ¬ fits b) → t.cab = s.cab) ∧
    ∀ (before after : List Binding) (b : Binding), s.cab.set.bindings = before ++ b :: after → (∀ x ∈ before, ¬ fits x) → fits b →
      let makes (a : Admission) : Prop := s.port.parked = true →
        (s.cab.pool.free ≠ [] → t.cab = { s.cab.admitOrder a with jog := match b.action with
          | .jog d => some ⟨s.cab.nextNumber, d⟩
          | _ => (s.cab.admitOrder a).jog }) ∧
        (s.cab.pool.free = [] → t.cab = s.cab.notify .strip (some (.refused ⟨g, zone, start, before.length + 1, .poolFull, none⟩)))
      let refused (code : Code) (detail : Option Nat) : Prop :=
        t.cab = s.cab.notify .strip (some (.refused ⟨g, zone, start, before.length + 1, code, detail⟩))
      let idle : Prop :=
        t.cab = s.cab.notify .strip (some (.nothingToDo ⟨g, zone, start, before.length + 1, .ok, some 1⟩))
      (∀ n l, b.action = .invoke n → s.cab.layouts.find? n = some l → l.validation = .feasible ∨ l.validation = .partial_ →
        let plans := expand s.cab.docks l.entries
        (s.port.parked = false → refused .notParked none) ∧
        (s.port.parked = true → 20 < plans.length → refused .badArgument (some stepLimit)) ∧
        (plans ≠ [] → plans.length ≤ 20 → makes ⟨.cargoStrip, .arrange, some (l.number, l.generation), .comfort, plans⟩) ∧
        (s.port.parked = true → plans = [] → idle)) ∧
      (∀ n l, b.action = .invoke n → s.cab.layouts.find? n = some l →
        (∀ lo hi, l.validation = .infeasible lo hi → refused .infeasible (some (lo.num * 16 + hi.num))) ∧
        (l.validation = .noMatch → refused .dockNotReady none)) ∧
      (∀ n, b.action = .invoke n → s.cab.layouts.find? n = none → refused .notFound none) ∧
      (∀ d i e a, b.action = .toggle d → (s.cab.dock d).state = .ready → (s.cab.dock d).identity = some i →
        (s.cab.dock d).geometry = some e → s.cab.axis? d i.kind.baseAxis = some a → a.enabled = true →
        let plans := targetPlans d a e (if a.ref = .referenced ∧ a.stationAt e a.count = 0 then 7 else 0)
        (s.port.parked = false → refused .notParked none) ∧
        (plans ≠ [] → makes ⟨.cargoStrip, .single, none, .comfort, plans⟩) ∧
        (s.port.parked = true → plans = [] → idle)) ∧
      (∀ d, b.action = .toggle d ∨ b.action = .jog d → (s.cab.dock d).state ≠ .ready → refused .dockNotReady none) ∧
      (∀ d i e, b.action = .toggle d → (s.cab.dock d).state = .ready → (s.cab.dock d).identity = some i →
        (s.cab.dock d).geometry = some e → (∀ a, s.cab.axis? d i.kind.baseAxis = some a → a.enabled = false) →
        refused .badArgument none) ∧
      (∀ d, b.action = .jog d → s.cab.axis? d .slide = none → refused .dockNotReady none) ∧
      (∀ d a, b.action = .jog d → (s.cab.dock d).state = .ready → s.cab.axis? d .slide = some a →
        (a.enabled = false ∨ a.ref = .referenceFault → refused .badArgument none) ∧
        (a.enabled = true → a.ref ≠ .referenceFault →
          (s.port.parked = false → refused .notParked none) ∧
          (zone = 1 → makes ⟨.cargoStrip, .jog, none, .comfort, [⟨d, .slide, .jog, a.travel, .deploying⟩]⟩) ∧
          (zone ≠ 1 → makes ⟨.cargoStrip, .jog, none, .comfort, [⟨d, .slide, .jog, 0, .stowing⟩]⟩)))
  (∀ (s : State) (p : Touch), p.phase = .touching →
    let t := s.releaseTouch p
    let ms := s.cab.now - p.startTime
    let movement : Int := (p.position : Int) - p.startPos
    let short : Prop := 60 ≤ ms ∧ ms ≤ 400 ∧ p.excursion < 40
    t.pad.touch = none ∧ t.pad.electrodes = s.pad.electrodes.map (fun x => if x.retune then x.beginTuning else x) ∧
    (short → acts s t .tap (p.startPos / 64) p.startPos) ∧
    (60 ≤ ms → ms < 600 → ¬ short → movement ≤ -40 → acts s t .flickFwd 0 p.startPos) ∧
    (60 ≤ ms → ms < 600 → ¬ short → 40 ≤ movement → acts s t .flickRear 1 p.startPos) ∧
    (ms < 60 ∨ 600 ≤ ms ∨ ¬ short ∧ movement.natAbs < 40 → t.cab = s.cab)) ∧
  (∀ (s : State) (p : Touch), p.phase = .held → (s.releaseTouch p).cab = s.cab.endJog ∧ (s.releaseTouch p).pad.touch = none) ∧
  (∀ c : Cabin, (c.jog = none → c.endJog = c) ∧
    (∀ j, c.jog = some j → c.orderOf? j.order = none → c.endJog = { c with jog := none }) ∧
    ∀ (j : Jog) (o : Order) (x : Step), c.pool.Named → c.jog = some j → c.orderOf? j.order = some o → o.steps = [x] →
      let t := c.endJog
      let becomes (P : Step → Prop) : Prop := ∃ o' y, t.pool.recs.get o.slot = some o' ∧ o'.steps = [y] ∧ P y
      t.jog = none ∧
      (x.state = .pending ∨ x.state = .claiming ∨ x.state = .powering → becomes fun y => y.state = .skipped ∧ y.holds = false) ∧
      (x.state = .starting ∨ x.state = .running → becomes fun y => y.state = .stopping ∧ y.stopCause = some .release) ∧
      (x.state = .stopping → x.stopCause = some .pause → becomes fun y => y = { x with stopCause := some .release }) ∧
      (x.state = .stopping ∧ x.stopCause ≠ some .pause ∨ x.state = .reversing ∨ x.state.terminal = true →
        becomes fun y => y = x)) ∧
  ∀ (s : State) (p : Touch), p.phase ≠ .expired →
    let t := s.touchFrame p
    let ms := s.cab.now - p.startTime
    let position := stripPosition s.cab.set.limits.strip.touch p.position s.pad.electrodes
    let q (phase : TouchPhase) : Touch := ⟨phase, p.startTime, p.startPos, position, max p.excursion (absDiff position p.startPos), ms⟩
    let far : Prop := 40 ≤ absDiff position p.startPos
    (4000 ≤ ms → t.pad.touch = some (q .expired) ∧ t.cab = if p.phase = .held then s.cab.endJog else s.cab) ∧
    (ms < 4000 → p.phase = .touching → 600 ≤ ms → far → t.pad.touch = some (q .held) ∧
      acts s t .swipeHold (if position < p.startPos then 0 else 1) p.startPos) ∧
    (ms < 4000 → p.phase = .held ∨ ms < 600 ∨ ¬ far → t.pad.touch = some (q p.phase) ∧ t.cab = s.cab)

/-! ### Requests about layouts (chapter 3) -/

/-- R55, R56, R57, R67: the four layout lookups answer from the live records and change nothing. That no match is carried as the byte
255, and that LIST_LAYOUTS answers the numbers alone, one byte each, is the model's choice (log 31). -/
def Obligations.LayoutLookupsAnswerAndChangeNothing : Prop :=
  ∀ (h : ReqHdr) (s : State) (b : IdentBinding), s.Takes h b → s.cab.layouts.Sound →
    let live := s.cab.layouts.live
    let numbers (p : LayoutRec → Bool) : List Nat := (live.filter p).map (·.number)
    (∀ n, ∃ t, exec (.lookupLayout h n) s = .next t ∧
      (n < 1 ∨ 24 < n → s.OnlyAnswers t b 0 h (refuse .badArgument)) ∧
      (1 ≤ n → n ≤ 24 → (∀ l ∈ live, l.number ≠ n) → s.OnlyAnswers t b 0 h (refuse .notFound)) ∧
      ∀ l ∈ live, l.number = n → s.OnlyAnswers t b 0 h (okWith l.bytes)) ∧
    (∀ label, ∃ t, exec (.lookupLabel h label) s = .next t ∧
      (labelOk label = false → s.OnlyAnswers t b 1 h (refuse .badArgument)) ∧
      (labelOk label = true → (∀ l ∈ live, l.label ≠ label) → s.OnlyAnswers t b 1 h (refuse .notFound)) ∧
      (labelOk label = true → ∀ l ∈ live, l.label = label → s.OnlyAnswers t b 1 h (okWith l.bytes))) ∧
    (∀ f, ∃ t, exec (.listLayouts h f) s = .next t ∧
      match f with
      | .all => s.OnlyAnswers t b 2 h (okWith (live.map fun l => byteOf l.number))
      | .shared => s.OnlyAnswers t b 2 h (okWith ((numbers fun l => l.owner = 0).map byteOf))
      | .profile n =>
        if 1 ≤ n ∧ n ≤ 4 then s.OnlyAnswers t b 2 h (okWith ((numbers fun l => 7 ≤ l.number && l.owner = n).map byteOf))
        else s.OnlyAnswers t b 2 h (refuse .badArgument)
      | .visible => s.OnlyAnswers t b 2 h (okWith ((numbers fun l => l.owner = 0 || l.owner = h.profile).map byteOf))
      | .unknown _ => s.OnlyAnswers t b 2 h (refuse .badArgument)) ∧
    ∃ t, exec (.lookupMatch h) s = .next t ∧
      (s.cab.layouts.match_ = none → s.OnlyAnswers t b 3 h (okWith [255])) ∧
      ∀ l ∈ live, s.cab.layouts.match_ = some l.number → s.OnlyAnswers t b 3 h (okWith l.bytes)

/-- R58: the checks of WRITE_LAYOUT in their order, each with its outcome and, for BAD_ARGUMENT and DUPLICATE_LABEL, its detail; a
refused write changes nothing. -/
def Obligations.WriteLayoutChecksInOrder : Prop :=
  ∀ (h : ReqHdr) (s : State) (b : IdentBinding) (n : Nat) (r : RawContents), s.Takes h b → s.cab.layouts.Sound →
    let mayWrite := b.cls = .body ∨ b.cls = .gateway ∨ b.cls = .service
    let numbered := mayWrite ∧ n ≤ 24
    let formed := numbered ∧ r.WellFormed
    let allowed := formed ∧ (n ≤ 6 → 1 ≤ n → b.cls = .service)
    let sharedFactory := allowed ∧ (n ≤ 6 → 1 ≤ n → r.owner = 0)
    let owned := sharedFactory ∧ (b.cls = .body ∨ b.cls = .gateway →
      (r.owner = 0 ∨ r.owner = h.profile) ∧ ∀ l ∈ s.cab.layouts.live, l.number = n → l.owner = 0 ∨ l.owner = h.profile)
    let full := ∀ k, 7 ≤ k → k ≤ 24 → ∃ l ∈ s.cab.layouts.live, l.number = k
    let refused (a : Answer) := ∃ t, exec (.writeLayout h n r) s = .next t ∧ s.OnlyAnswers t b 4 h a
    (¬ mayWrite → refused (refuse .refusedAccess)) ∧
    (mayWrite → ¬ n ≤ 24 → refused (refuseWith .badArgument 2)) ∧
    (numbered → ¬ r.WellFormed → refused (refuseWith .badArgument 3)) ∧
    (formed → 1 ≤ n → n ≤ 6 → b.cls ≠ .service → refused (refuse .refusedAccess)) ∧
    (allowed → 1 ≤ n → n ≤ 6 → r.owner ≠ 0 → refused (refuseWith .badArgument 5)) ∧
    (sharedFactory → ¬ owned → refused (refuse .refusedAccess)) ∧
    (owned → n = 0 → full → refused (refuse .tableFull)) ∧
    (owned → (n = 0 → ¬ full) → ∀ l ∈ s.cab.layouts.live, l.label = r.label → (n ≠ 0 → l.number ≠ n) →
      refused (refuseWith .duplicateLabel l.number))

/-- R51, R54, R58, R59: a WRITE_LAYOUT that meets every condition of R58 is taken (one that misses any is WriteLayoutChecksInOrder).
The record stands in the table with its new generation, its entries in dock order with targets ordered and clamped, PENDING and
validated, the number is dirty, the match is recomputed, LAYOUT is pending, and POSTURE of the READY docks where the match has
changed; the response carries what the rule names (its bytes are log 31), and nothing else changes. R61 to R63: the validation state is
decided by the first row that applies, from the matched docks and the final footprints, the cells a dock covers with its targeted
axes at their targets and the others at their postures (a DISABLED axis at its count, log 46). R65, R66: the match is the
lowest-numbered live record whose targets on matched docks are all met. R64: a revalidation validates every live record and recomputes
the match, each change told; every settling of a dock, posture change outside motion and leaving of READY is one. -/
def Obligations.WriteLayoutWritesTheRecord : Prop :=
  (∀ (h : ReqHdr) (s : State) (b : IdentBinding) (n : Nat) (r : RawContents), s.Takes h b → s.cab.layouts.Sound →
    let live := s.cab.layouts.live
    b.cls = .body ∨ b.cls = .gateway ∨ b.cls = .service → n ≤ 24 → r.WellFormed →
    (1 ≤ n → n ≤ 6 → b.cls = .service ∧ r.owner = 0) →
    (b.cls = .body ∨ b.cls = .gateway →
      (r.owner = 0 ∨ r.owner = h.profile) ∧ ∀ l ∈ live, l.number = n → l.owner = 0 ∨ l.owner = h.profile) →
    (n = 0 → ∃ j, 7 ≤ j ∧ j ≤ 24 ∧ ∀ l ∈ live, l.number ≠ j) →
    (∀ l ∈ live, l.label = r.label → n ≠ 0 ∧ l.number = n) →
    ∃ t number l, exec (.writeLayout h n r) s = .next t ∧ s.SameOutside t ∧
      { t.cab with layouts := s.cab.layouts, notices := s.cab.notices } = s.cab ∧
      (n ≠ 0 → number = n) ∧
      (n = 0 → 7 ≤ number ∧ number ≤ 24 ∧ (∀ x ∈ live, x.number ≠ number) ∧
        ∀ j, 7 ≤ j → j < number → ∃ x ∈ live, x.number = j) ∧
      l ∈ t.cab.layouts.live ∧ l.number = number ∧ l.label = r.label ∧ l.owner = r.owner ∧ l.urgency.code = r.urgency ∧
      (l.entries.map fun e => e.dock.num).Pairwise (· < ·) ∧ l.entries.length = r.entries.length ∧
      (∀ x ∈ r.entries, ∃ e ∈ l.entries, e.dock.num = x.dock ∧ e.expected.code = x.kind ∧
        (e.targets.map fun k => k.1.code).Pairwise (· < ·) ∧
        ∀ k v, (k, v) ∈ e.targets ↔ ∃ w, (k.code, w) ∈ x.targets ∧ v = min w (if k = .slide then 1000 else 7)) ∧
      l.store = .pending ∧ l.validation = validate s.cab.docks l.entries ∧
      ((∀ x ∈ live, x.number ≠ number) → l.generation = 1) ∧
      (∀ x ∈ live, x.number = number → l.generation = if x.generation = 65535 then 1 else x.generation + 1) ∧
      (∀ x, x.number ≠ number → (x ∈ t.cab.layouts.live ↔ x ∈ live)) ∧
      (∀ j, j ∈ t.cab.layouts.dirty ↔ j = number ∨ j ∈ s.cab.layouts.dirty) ∧
      t.cab.layouts.match_ = t.cab.layouts.computeMatch s.cab.docks ∧ t.cab.Pends (.layout number) ∧
      (t.cab.layouts.match_ ≠ s.cab.layouts.match_ → ∀ d, (s.cab.dock d).state = .ready → t.cab.Pends (.posture d)) ∧
      s.Answered t b 4 h (okWith ([byteOf number] ++ wordOf l.generation ++
        [byteOf l.store.code, byteOf l.validation.code, byteOf l.validation.pair]))) ∧
  (∀ (docks : PerDock DockRec) (entries : List Entry), (entries.map (·.dock)).Nodup →
    (∀ e ∈ entries, (e.targets.map (·.1)).Nodup) → (∀ d, ((docks.get d).axes.map (·.kind)).Nodup) →
    let matched (d : Dock) : Prop := ∃ e ∈ entries, e.dock = d ∧ e.Matches docks
    let final (d : Dock) (x : Cell) : Prop := (docks.get d).Covers (fun a g j =>
      (∀ e ∈ entries, e.dock = d → e.Matches docks → a.PlacedBy e.targets g j) ∧ (¬ matched d → a.MayStand g a.count a.count j)) x
    let meets (d e : Dock) : Prop := d.num < e.num ∧ (docks.get d).state = .ready ∧ (docks.get e).state = .ready ∧
      (matched d ∨ matched e) ∧ ∃ x, final d x ∧ final e x
    let apart : Prop := ∀ d e, ¬ meets d e
    let v := validate docks entries
    (v = .noMatch ↔ ∀ d, ¬ matched d) ∧
    (∀ d e, v = .infeasible d e ↔
      meets d e ∧ ∀ d' e', meets d' e' → d.num < d'.num ∨ d.num = d'.num ∧ e.num ≤ e'.num) ∧
    (v = .feasible ↔ (∃ d, matched d) ∧ apart ∧ ∀ e ∈ entries, e.Matches docks) ∧
    (v = .partial_ ↔ (∃ d, matched d) ∧ apart ∧ ∃ e ∈ entries, ¬ e.Matches docks)) ∧
  (∀ (t : LayoutTable) (docks : PerDock DockRec), t.Sound → (∀ d, ((docks.get d).axes.map (·.kind)).Nodup) →
    (t.computeMatch docks = none ↔ ∀ l ∈ t.live, ¬ l.Equals docks) ∧
    ∀ n, t.computeMatch docks = some n ↔
      ∃ l ∈ t.live, l.number = n ∧ l.Equals docks ∧ ∀ k ∈ t.live, k.Equals docks → n ≤ k.number) ∧
  ∀ (c : Cabin) (d : Dock), c.layouts.Sound →
    let validated (t : Cabin) : Prop :=
      t.layouts.live = (c.layouts.live.map fun l => { l with validation := validate t.docks l.entries }) ∧
      t.layouts.match_ = t.layouts.computeMatch t.docks ∧ t.layouts.dirty = c.layouts.dirty
    (∀ also : Option Dock,
      let t := c.revalidate also
      validated t ∧ { t with layouts := c.layouts, notices := c.notices } = c ∧
      (∀ l ∈ c.layouts.live, validate c.docks l.entries ≠ l.validation → t.Pends (.layout l.number)) ∧
      (t.layouts.match_ ≠ c.layouts.match_ → ∀ e, (c.dock e).state = .ready ∨ also = some e → t.Pends (.posture e)) ∧
      (t.layouts = c.layouts → t.notices = c.notices)) ∧
    validated (c.settle d) ∧ validated (c.settleKeeping d) ∧ validated (c.postureOutside d) ∧
    ∀ st why, validated (c.leaveReady d st why)

/-- R60: RETIRE_LAYOUT. Its checks in order, each refusal changing nothing; and what a retire that passes them does: the record leaves,
the number is dirty, the match is recomputed from what remains, LAYOUT is pending with RETIRED, and nothing else changes. -/
def Obligations.RetireLayoutFreesThePosition : Prop :=
  ∀ (h : ReqHdr) (s : State) (b : IdentBinding) (n : Nat), s.Takes h b → s.cab.layouts.Sound →
    let mayWrite := b.cls = .body ∨ b.cls = .gateway ∨ b.cls = .service
    let refused (a : Answer) := ∃ t, exec (.retireLayout h n) s = .next t ∧ s.OnlyAnswers t b 5 h a
    (¬ mayWrite → refused (refuse .refusedAccess)) ∧
    (mayWrite → n < 1 ∨ 24 < n → refused (refuse .badArgument)) ∧
    (mayWrite → 1 ≤ n → n ≤ 6 → refused (refuse .protected_)) ∧
    (mayWrite → 7 ≤ n → n ≤ 24 → (∀ l ∈ s.cab.layouts.live, l.number ≠ n) → refused (refuse .notFound)) ∧
    (b.cls = .body ∨ b.cls = .gateway → 7 ≤ n → n ≤ 24 → ∀ l ∈ s.cab.layouts.live, l.number = n → l.owner ≠ 0 →
      l.owner ≠ h.profile → refused (refuse .refusedAccess)) ∧
    (mayWrite → 7 ≤ n → n ≤ 24 → ∀ l ∈ s.cab.layouts.live, l.number = n →
      (b.cls = .body ∨ b.cls = .gateway → l.owner = 0 ∨ l.owner = h.profile) →
      ∃ t, exec (.retireLayout h n) s = .next t ∧ s.SameOutside t ∧
        { t.cab with layouts := s.cab.layouts, notices := s.cab.notices } = s.cab ∧
        (∀ x, x ∈ t.cab.layouts.live ↔ x ∈ s.cab.layouts.live ∧ x.number ≠ n) ∧
        (∀ j, j ∈ t.cab.layouts.dirty ↔ j = n ∨ j ∈ s.cab.layouts.dirty) ∧
        t.cab.layouts.match_ = t.cab.layouts.computeMatch s.cab.docks ∧
        ⟨.layout n, some .retired⟩ ∈ t.cab.notices ∧ s.Answered t b 5 h (okWith []))

/-! ### Requests about orders (chapter 4) -/

/-- R78: the checks of INVOKE_LAYOUT in their order, each with its outcome and detail; a refused request changes nothing. That the
detail of INFEASIBLE carries its dock pair as lower dock times 16 plus higher dock is log 34. -/
def Obligations.InvokeLayoutChecksInOrder : Prop :=
  ∀ (h : ReqHdr) (s : State) (b : IdentBinding) (n : Nat) (gen urgency : Option Nat), s.Takes h b → s.cab.layouts.Sound →
    let refused (a : Answer) := ∃ t, exec (.invokeLayout h n gen urgency) s = .next t ∧ s.OnlyAnswers t b 6 h a
    let may := b.cls ≠ .restraint
    let args := may ∧ (1 ≤ n ∧ n ≤ 24) ∧ (∀ g ∈ gen, 1 ≤ g ∧ g ≤ 65535) ∧ (∀ u ∈ urgency, u ≤ 1)
    (¬ may → refused (refuse .refusedAccess)) ∧
    (may → ¬ args → refused (refuse .badArgument)) ∧
    (args → (∀ l ∈ s.cab.layouts.live, l.number ≠ n) → refused (refuse .notFound)) ∧
    ∀ l ∈ s.cab.layouts.live, l.number = n → args →
      (∀ g ∈ gen, g ≠ l.generation → refused (refuseWith .staleGeneration l.generation)) ∧
      ((∀ g ∈ gen, g = l.generation) →
        (∀ lo hi, l.validation = .infeasible lo hi → refused (refuseWith .infeasible (lo.num * 16 + hi.num))) ∧
        (l.validation = .noMatch → refused (refuse .dockNotReady)) ∧
        (l.validation = .feasible ∨ l.validation = .partial_ →
          (s.port.parked = false → refused (refuse .notParked)) ∧
          (s.port.parked = true → 20 < (expand s.cab.docks l.entries).length → refused (refuseWith .badArgument stepLimit)) ∧
          (s.port.parked = true → (expand s.cab.docks l.entries) = [] → refused nothingToDo) ∧
          (s.port.parked = true → 0 < (expand s.cab.docks l.entries).length → (expand s.cab.docks l.entries).length ≤ 20 →
            s.cab.pool.free = [] → refused (refuse .poolFull))))

/-- R75, R78, R83, R84, R86, R87: INVOKE_LAYOUT, MOVE_AXIS and HOMING that pass their checks each admit the order of their expansion, in
the slot at the head of the free list and under the next number; the response carries number, slot, step count, urgency and, for
ARRANGE, layout number and generation (its bytes are log 31). EGRESS from GATEWAY is taken as COMFORT. MOVE_AXIS and HOMING that fail
a check are refused with the outcome of the first that fails, and change nothing; those of INVOKE_LAYOUT are InvokeLayoutChecksInOrder.
On every dock the new order touches, an older order's step in PENDING, CLAIMING or POWERING becomes SKIPPED and holds no claim, one in
STARTING or RUNNING goes to STOPPING with cause SUPERSEDE, the others and the steps of other docks stand, and the dock joins the older
order's superseded docks. What the admission tells the blocks is taken after it (log 3), the docks tested from D1 to D5 (log 83). -/
def Obligations.OrderRequestsAdmitTheirOrders : Prop :=
  (∀ (h : ReqHdr) (s : State) (b : IdentBinding) (slot : Slot) (rest : List Slot), s.Takes h b → s.cab.layouts.Sound →
    s.cab.pool.Parted → s.cab.pool.Named → b.cls ≠ .restraint → s.port.parked = true → s.cab.pool.free = slot :: rest →
    let taken (given : Option Nat) (default : Urgency) : Urgency :=
      if b.cls = .gateway then .comfort else if given = some 1 then .egress else if given = some 0 then .comfort else default
    let head (l : List Plan) (u : Urgency) : List Byte :=
      wordOf s.cab.nextNumber ++ [byteOf slot.num, byteOf l.length, byteOf u.code]
    let admits (t : State) (a : Admission) : Prop := s.Admits t a ∧ t.cab = (s.cab.admitOrder a).cascade
    (∀ n (gen urgency : Option Nat) l, l ∈ s.cab.layouts.live → l.number = n → 1 ≤ n ∧ n ≤ 24 → (∀ g ∈ gen, g = l.generation) →
      1 ≤ l.generation ∧ l.generation ≤ 65535 → (∀ u ∈ urgency, u ≤ 1) → l.validation = .feasible ∨ l.validation = .partial_ →
      let plans := expand s.cab.docks l.entries
      let u := taken urgency l.urgency
      plans ≠ [] → plans.length ≤ 20 →
      ∃ t, exec (.invokeLayout h n gen urgency) s = .next t ∧
        admits t ⟨.cls b.cls, .arrange, some (n, l.generation), u, plans⟩ ∧
        s.Answered t b 6 h (okWith (head plans u ++ byteOf n :: wordOf l.generation))) ∧
    (∀ (d : Dock) (k : AxisKind) (target : Nat) (urgency : Option Nat) (a : Axis) (e : GeomEntry),
      (s.cab.dock d).state = .ready → s.cab.axis? d k = some a → (s.cab.dock d).geometry = some e → a.enabled = true →
      (∀ u ∈ urgency, u ≤ 1) →
      let plans := targetPlans d a e (min target (if k = .slide then 1000 else 7))
      let u := taken urgency .comfort
      plans ≠ [] →
      ∃ t, exec (.moveAxis h d.num k.code target urgency) s = .next t ∧
        admits t ⟨.cls b.cls, .single, none, u, plans⟩ ∧ s.Answered t b 7 h (okWith (head plans u))) ∧
    (∀ (d : Dock) (k : Option AxisKind), (s.cab.dock d).state = .ready →
      let plans := homingPlans d ((s.cab.dock d).axes.filter fun a => k.isNone || k = some a.kind)
      plans ≠ [] →
      ∃ t, exec (.homing h d.num (k.map AxisKind.code)) s = .next t ∧
        admits t ⟨.cls b.cls, .homing, none, .comfort, plans⟩ ∧ s.Answered t b 8 h (okWith (head plans .comfort)))) ∧
  (∀ (h : ReqHdr) (s : State) (b : IdentBinding), s.Takes h b →
    let moving (d k target : Nat) (u : Option Nat) (a : Answer) : Prop :=
      ∃ t, exec (.moveAxis h d k target u) s = .next t ∧ s.OnlyAnswers t b 7 h a
    let homing (d : Nat) (k : Option Nat) (a : Answer) : Prop :=
      ∃ t, exec (.homing h d k) s = .next t ∧ s.OnlyAnswers t b 8 h a
    (b.cls = .restraint → (∀ d k target u, moving d k target u (refuse .refusedAccess)) ∧
      ∀ d k, homing d k (refuse .refusedAccess)) ∧
    (b.cls ≠ .restraint →
      (∀ d k target u, Dock.ofNum? d = none ∨ AxisKind.ofCode? k = none ∨ (∃ v, u = some v ∧ 1 < v) →
        moving d k target u (refuse .badArgument)) ∧
      (∀ d k, Dock.ofNum? d = none ∨ (∃ v, k = some v ∧ AxisKind.ofCode? v = none) → homing d k (refuse .badArgument)) ∧
      (∀ (d : Dock) (k : AxisKind) (target : Nat) (u : Option Nat), (∀ v ∈ u, v ≤ 1) →
        let moving (a : Answer) : Prop := moving d.num k.code target u a
        ((s.cab.dock d).state ≠ .ready → moving (refuse .dockNotReady)) ∧
        ((s.cab.dock d).state = .ready →
          (s.cab.axis? d k = none → moving (refuse .badArgument)) ∧
          ∀ (a : Axis) (e : GeomEntry), s.cab.axis? d k = some a → (s.cab.dock d).geometry = some e →
            let plans := targetPlans d a e (min target (if k = .slide then 1000 else 7))
            (a.enabled = false → moving (refuse .badArgument)) ∧
            (a.enabled = true → s.port.parked = false → moving (refuse .notParked)) ∧
            (a.enabled = true → s.port.parked = true → plans = [] → moving nothingToDo) ∧
            (a.enabled = true → s.port.parked = true → plans ≠ [] → s.cab.pool.free = [] → moving (refuse .poolFull)))) ∧
      ∀ (d : Dock) (k : Option AxisKind),
        let homing (a : Answer) : Prop := homing d.num (k.map AxisKind.code) a
        let named (a : Axis) : Prop := a ∈ (s.cab.dock d).axes ∧ (k = none ∨ k = some a.kind) ∧ a.enabled = true
        ((s.cab.dock d).state ≠ .ready → homing (refuse .dockNotReady)) ∧
        ((s.cab.dock d).state = .ready →
          ((∀ a, ¬ named a) → homing (refuse .badArgument)) ∧
          ∀ a, named a →
            (s.port.parked = false → homing (refuse .notParked)) ∧
            (s.port.parked = true → s.cab.pool.free = [] → homing (refuse .poolFull))))) ∧
  ∀ (c : Cabin) (a : Admission) (o : Order) (x : Step), c.pool.Parted → c.pool.Named → c.pool.free ≠ [] → o ∈ c.activeOrders →
    x ∈ o.steps → (∀ y ∈ o.steps, y.index = x.index → y = x) →
    let becomes (P : Step → Prop) : Prop :=
      ∃ o' y, (c.admitOrder a).pool.recs.get o.slot = some o' ∧ y ∈ o'.steps ∧ y.index = x.index ∧ P y ∧
        ((∃ p ∈ a.plans, p.dock = x.dock) → x.state.terminal = false → x.dock ∈ o'.superseded)
    let touched : Prop := ∃ p ∈ a.plans, p.dock = x.dock
    (touched → x.state = .pending ∨ x.state = .claiming ∨ x.state = .powering →
      becomes fun y => y.state = .skipped ∧ y.holds = false) ∧
    (touched → x.state = .starting ∨ x.state = .running →
      becomes fun y => y.state = .stopping ∧ y.stopCause = some .supersede) ∧
    (¬ touched ∨ x.state = .stopping ∨ x.state = .reversing ∨ x.state.terminal = true → becomes fun y => y = x)

/-- R79, R80, R81, R82, R84: the steps of one target: none on an axis that is DISABLED or already meets it; one MOVE step to the
target count on a REFERENCED axis; on an axis that is not believed a HOMING step before the MOVE step, or alone where the target
count is 0. The steps of a dock: those of its targets and no others, STOWING before DEPLOYING by the class of each target's last
step, in the two axis orders, a HOMING step immediately before the MOVE step it precedes, whose own class is a free value (log
21). The steps of a layout: those of its matched entries, in dock order; an unmatched entry makes none. The steps of a HOMING
request: one for each of the axes that is not DISABLED, in the deploying order. A list of steps is written with indexes from 1,
each step in PENDING. -/
def Obligations.TargetsExpandIntoSteps : Prop :=
  (∀ (d : Dock) (a : Axis) (e : GeomEntry) (v : Nat),
    let w := min v (if a.kind = .slide then millimetres a.travel a.pitch else (e.table a.kind).length - 1)
    let met := if a.kind = .slide then absDiff (millimetres a.count a.pitch) w ≤ 5 else a.stationAt e a.count = w
    let kinds := (targetPlans d a e v).map fun p => (p.kind, p.target)
    (∀ p ∈ targetPlans d a e v, p.dock = d ∧ p.axis = a.kind) ∧
    (a.enabled = false → targetPlans d a e v = []) ∧
    (a.enabled = true → a.ref = .referenced → met → targetPlans d a e v = []) ∧
    (a.enabled = true → a.ref = .referenced → ¬ met → kinds = [(.move, a.targetCount e w)]) ∧
    (a.enabled = true → a.ref ≠ .referenced → a.targetCount e w = 0 → kinds = [(.homing, 0)]) ∧
    (a.enabled = true → a.ref ≠ .referenced → a.targetCount e w ≠ 0 →
      kinds = [(.homing, 0), (.move, a.targetCount e w)]) ∧
    (∀ p ∈ targetPlans d a e v, p.kind = .move →
      let from_ := if a.ref = .referenced then a.count else 0
      (a.kind = .slide → p.cls = if p.target < from_ then .stowing else .deploying) ∧
      (a.kind ≠ .slide → p.cls = if a.stationAt e from_ < a.stationAt e p.target then .stowing else .deploying)) ∧
    ∀ p ∈ targetPlans d a e v, a.targetCount e w = 0 → p.kind = .homing → p.cls = .deploying) ∧
  (let place (k : AxisKind) (cls : StepClass) : Nat := match k, cls with
    | .headrest, .stowing => 0
    | .recline, .stowing => 1
    | .tumble, .stowing | .well, .stowing => 2
    | .slide, .stowing => 3
    | .slide, .deploying => 4
    | .tumble, .deploying | .well, .deploying => 5
    | .recline, .deploying => 6
    | .headrest, .deploying => 7
  (∀ (d : Dock) (r : DockRec) (targets : List (AxisKind × Nat)) (e : GeomEntry), r.geometry = some e →
    (targets.map (·.1)).Nodup →
    let plans := dockPlans d r targets
    let moved (p : Plan) : Bool := plans.any fun q => q.axis = p.axis && q.kind = .move
    (∀ p, p ∈ plans ↔ ∃ k v a, (k, v) ∈ targets ∧ findAxis r.axes k = some a ∧ p ∈ targetPlans d a e v) ∧
    (plans.filter fun p => p.kind = .move || !moved p).Pairwise (fun p q => place p.axis p.cls ≤ place q.axis q.cls) ∧
    ∀ (i : Nat) (p : Plan), plans[i]? = some p → p.kind = .homing → moved p = true →
      ∃ q, plans[i + 1]? = some q ∧ q.kind = .move ∧ q.axis = p.axis) ∧
  (∀ (docks : PerDock DockRec) (entries : List Entry), (entries.map fun e => e.dock.num).Pairwise (· < ·) →
    let plans := expand docks entries
    (plans.map fun p => p.dock.num).Pairwise (· ≤ ·) ∧
    (∀ e ∈ entries, e.matched docks = true →
      plans.filter (fun p => p.dock = e.dock) = dockPlans e.dock (docks.get e.dock) e.targets) ∧
    (∀ e ∈ entries, e.matched docks = false → ∀ p ∈ plans, p.dock ≠ e.dock) ∧
    ∀ p ∈ plans, ∃ e ∈ entries, e.matched docks = true ∧ e.dock = p.dock) ∧
  ∀ (d : Dock) (axes : List Axis), (axes.map (·.kind)).Nodup →
    (∀ p, p ∈ homingPlans d axes ↔ ∃ a ∈ axes, a.enabled = true ∧ p = ⟨d, a.kind, .homing, 0, .deploying⟩) ∧
    (homingPlans d axes).Pairwise (fun p q => place p.axis .deploying ≤ place q.axis .deploying)) ∧
  ∀ l : List Plan, (planSteps l).length = l.length ∧ ∀ (i : Nat) (p : Plan), l[i]? = some p →
    ∃ x, (planSteps l)[i]? = some x ∧ x.index = i + 1 ∧ x.state = .pending ∧ x.dock = p.dock ∧ x.axis = p.axis ∧ x.kind = p.kind ∧
      x.target = p.target ∧ x.cls = p.cls ∧ x.holds = false

/-- R97, R94, R128: CANCEL_ORDER sets the order's cancel-taken flag, CANCEL_ALL that of every active order, each cancelled in turn
as CANCEL_ORDER would, with the count of orders changed in its detail; a number outside 1 to 65535, one of no active order, and a
cancel already taken change nothing. Of the order's steps those in STARTING or RUNNING go to STOPPING with cause CANCEL, those in
PENDING, CLAIMING or POWERING become SKIPPED and hold no claim, the others stand. A step stopped in RUNNING goes on without a
brake through a shortened ramp-down: its stop length is the smaller of ramp_eff and the distance left to the target, its stop
setpoint the last one sent. A ramp-down that ends (of a step in STARTING, or on a HOMING move, in the same event) leaves the step
SKIPPED for CANCEL and SUPERSEDE, DONE for RELEASE, and for PAUSE in CLAIMING with its claim, or SKIPPED where the order has
failed or been cancelled, or a newer order has superseded the dock (log 49). What the cancel tells the blocks is taken after it
(log 3). -/
def Obligations.CancelsAreTaken : Prop :=
  (∀ (h : ReqHdr) (s : State) (b : IdentBinding), s.Takes h b → s.cab.pool.Parted → s.cab.pool.Named → s.cab.pool.Numbered →
    let framed (t : State) := s.SameOutside t ∧ t.cab.set = s.cab.set ∧ t.cab.pool.next = s.cab.pool.next ∧
      t.cab.arb.budget = s.cab.arb.budget ∧ ∀ d, (t.cab.dock d).fixed = (s.cab.dock d).fixed
    (∀ o ∈ s.cab.activeOrders, o.cancelTaken = false →
      ∃ t o', exec (.cancelOrder h o.number) s = .next t ∧ t.cab.pool.recs.get o.slot = some o' ∧ o'.cancelTaken = true ∧
        o'.admitted = o.admitted ∧ framed t ∧ t.cab = (s.cab.cancelOrder o.slot).cascade ∧
        s.Answered t b 9 h (okWith [])) ∧
    (∀ o ∈ s.cab.activeOrders, o.cancelTaken = true →
      ∃ t, exec (.cancelOrder h o.number) s = .next t ∧ s.OnlyAnswers t b 9 h nothingToDo) ∧
    (∀ n, n < 1 ∨ 65535 < n → ∃ t, exec (.cancelOrder h n) s = .next t ∧ s.OnlyAnswers t b 9 h (refuse .badArgument)) ∧
    (∀ n, 1 ≤ n → n ≤ 65535 → (∀ o ∈ s.cab.activeOrders, o.number ≠ n) →
      ∃ t, exec (.cancelOrder h n) s = .next t ∧ s.OnlyAnswers t b 9 h (refuse .notFound)) ∧
    ∃ t, exec (.cancelAll h) s = .next t ∧ framed t ∧
      t.cab = ((s.cab.activeOrders.filter fun o => !o.cancelTaken).foldl (fun c o => c.cancelOrder o.slot) s.cab).cascade ∧
      (∀ o ∈ s.cab.activeOrders, ∃ o', t.cab.pool.recs.get o.slot = some o' ∧ o'.cancelTaken = true ∧
        o'.admitted = o.admitted) ∧
      s.Answered t b 10 h { code := .ok, detail := some (s.cab.activeOrders.countP fun o => !o.cancelTaken) }) ∧
  let becomes (c : Cabin) (o : Order) (x : Step) (P : Step → Prop) : Prop :=
    ∃ o' y, c.pool.recs.get o.slot = some o' ∧ y ∈ o'.steps ∧ y.index = x.index ∧ P y
  (∀ (c : Cabin) (o : Order) (x : Step), c.pool.Named → o ∈ c.activeOrders → x ∈ o.steps →
    (∀ y ∈ o.steps, y.index = x.index → y = x) →
    let t := c.cancelOrder o.slot
    (x.state = .pending ∨ x.state = .claiming ∨ x.state = .powering → becomes t o x fun y => y.state = .skipped ∧ y.holds = false) ∧
    (x.state = .starting ∨ x.state = .running → becomes t o x fun y => y.state = .stopping ∧ y.stopCause = some .cancel) ∧
    (x.state = .starting ∨ x.state = .running ∧ x.kind = .homing → ∀ p, c.driven? x.dock = some p →
      .endStopping x.dock ∈ t.agenda ∧ (t.dock x.dock).command = .brake) ∧
    (x.state = .running → x.kind ≠ .homing → ∀ a m, c.driven? x.dock = some (a, m) →
      (∃ b plan, t.driven? x.dock = some (b, { m with stop := some plan }) ∧ b.tracked = a.tracked ∧
        plan.length = min m.rampEff (m.dir.along ((m.target : Int) - a.tracked)).toNat ∧ plan.setpoint = m.lastSetpoint ∧
        plan.origin = a.tracked) ∧
      ((∀ y ∈ o.steps, y ≠ x → y.dock = x.dock → y.state.inMotion = false) →
        (t.dock x.dock).command = (c.dock x.dock).command)) ∧
    (x.state = .stopping ∨ x.state = .reversing ∨ x.state.terminal = true → becomes t o x fun y => y = x)) ∧
  ∀ (c : Cabin) (d : Dock) (a : Axis) (m : Move) (o : Order) (x : Step), c.pool.Named → c.driven? d = some (a, m) →
    c.step? m.step = some (o, x) → x.state = .stopping →
    let t := c.endStopping d
    let ends (P : Step → Prop) : Prop := becomes t o x P ∧ (t.dock d).command = .brake
    (x.stopCause = some .cancel ∨ x.stopCause = some .supersede → ends fun y => y.state = .skipped ∧ y.holds = false) ∧
    (x.stopCause = some .release → ends fun y => y.state = .done ∧ y.holds = false) ∧
    (x.stopCause = some .pause → o.firstFailure = none → o.cancelTaken = false → d ∉ o.superseded →
      ends fun y => y.state = .claiming ∧ y.blocker = none ∧ y.waitStart = none ∧ y.stopCause = none ∧ y.holds = x.holds) ∧
    (x.stopCause = some .pause → o.firstFailure ≠ none ∨ o.cancelTaken = true ∨ d ∈ o.superseded →
      ends fun y => y.state = .skipped ∧ y.holds = false)

/-- R100, R133, R183: LOOKUP_ORDER and LOOKUP_POSTURE answer the part asked for, part 0 where none is asked, each part beginning
with its number and the part count; a part past the count is BAD_ARGUMENT with the count; neither changes anything. The bytes of a
part, and where the number stands after the part count, are log 31, 33 and 51, the unit of the time since a fault log 62, the
place of an axis's kind log 81. -/
def Obligations.PartLookupsAnswerTheirPart : Prop :=
  ∀ (h : ReqHdr) (s : State) (b : IdentBinding) (part : Option Nat), s.Takes h b →
    (∀ n, ∃ t, exec (.lookupOrder h n part) s = .next t ∧
      (n < 1 ∨ 65535 < n → s.OnlyAnswers t b 11 h (refuse .badArgument)) ∧
      (1 ≤ n → n ≤ 65535 → (∀ o ∈ s.cab.activeOrders, o.number ≠ n) → s.OnlyAnswers t b 11 h (refuse .notFound)) ∧
      ∀ o, 1 ≤ n → n ≤ 65535 → s.cab.orderOf? n = some o →
        let parts := 1 + (o.steps.length + 1) / 2
        (parts ≤ part.getD 0 → s.OnlyAnswers t b 11 h (refuseWith .badArgument parts)) ∧
        (part.getD 0 < parts → ∃ data, s.OnlyAnswers t b 11 h (okWith data) ∧
          data.take 4 = [byteOf (part.getD 0), byteOf parts, byteOf (n / 256), byteOf (n % 256)] ∧
          (part.getD 0 = 0 → data.drop 4 = orderBytes o) ∧
          (part.getD 0 ≠ 0 → data.drop 4 =
            ((o.steps.drop (2 * (part.getD 0 - 1))).take 2).flatMap (stepBytes s.cab.now)))) ∧
    (∀ n, Dock.ofNum? n = none → ∃ t, exec (.lookupPosture h n part) s = .next t ∧
      s.OnlyAnswers t b 12 h (refuse .badArgument)) ∧
    ∀ d : Dock, ∃ t, exec (.lookupPosture h d.num part) s = .next t ∧
      let parts := 1 + (s.cab.dock d).axes.length
      (parts ≤ part.getD 0 → s.OnlyAnswers t b 12 h (refuseWith .badArgument parts)) ∧
      (part.getD 0 < parts → ∃ data, s.OnlyAnswers t b 12 h (okWith data) ∧
        data.take 3 = [byteOf (part.getD 0), byteOf parts, byteOf d.num] ∧
        (part.getD 0 = 0 → data.drop 3 = postureBytes (s.cab.dock d) s.cab.layouts.match_) ∧
        ∀ a, part.getD 0 ≠ 0 → (s.cab.dock d).axes[part.getD 0 - 1]? = some a →
          data.drop 3 = axisBytes s.cab.now a ((s.cab.dock d).identity.bind fun i => s.cab.set.override? i.kind a.kind))

/-- R49, the whole rule, with the packing of R183: QUERY_CELLS answers, for each of the 96 cells of a lane in column and tier order, its
holder in three bits and its listed marker in the fourth, the first cell of a pair in the low bits (log 31); it changes nothing. -/
def Obligations.QueryCellsAnswersTheLane : Prop :=
  ∀ (h : ReqHdr) (s : State) (b : IdentBinding), s.Takes h b →
    (∀ n, 2 < n → ∃ t, exec (.queryCells h n) s = .next t ∧ s.OnlyAnswers t b 13 h (refuse .badArgument)) ∧
    ∀ lane : Lane, ∃ t data, exec (.queryCells h lane.num) s = .next t ∧ s.OnlyAnswers t b 13 h (okWith data) ∧
      data.length = 48 ∧
      ∀ (col : Fin 16) (tier : Fin 6),
        let i := col.val * 6 + tier.val
        let byte := byteAt data (i / 2)
        let nibble := if i % 2 = 0 then byte % 16 else byte / 16
        let x : Cell := ⟨lane, col, tier⟩
        (nibble % 8 = match s.cab.map.holderOf x with
          | none => 0
          | some g => g.num) ∧
        (nibble / 8 = 1 ↔ ∃ g, (s.cab.map.listed.get g).mem x = true)

/-! ### Requests about docks, settings and the Port -/

/-- R23, the whole rule: RE_ENROLL by requester class, dock number and dock state. A FAULTED dock enters ENROLLING as R5 lays
down; every other case changes nothing. With no order active to claim what it sets free, the map is the install of the dock's
envelope and the trim to it, and nothing more. The clause verdictDue = none, by which a VERDICT page still owed is dropped, is the
model's own choice (log 60) and no part of the rule. -/
def Obligations.ReEnrollFollowsTheDockState : Prop :=
  ∀ (h : ReqHdr) (s : State) (b : IdentBinding), s.Takes h b →
    let allowed := b.cls = .body ∨ b.cls = .service
    let answers (n : Nat) (a : Answer) :=
      ∃ t, exec (.reEnroll h n) s = .next t ∧ s.OnlyAnswers t b 14 h a ∧ t.port.power = .awake
    (¬ allowed → ∀ n, answers n (refuse .refusedAccess)) ∧
    (allowed → ∀ n, Dock.ofNum? n = none → answers n (refuse .badArgument)) ∧
    (allowed → ∀ d : Dock,
      ((s.cab.dock d).state = .ready ∨ (s.cab.dock d).state = .silent → answers d.num nothingToDo) ∧
      ((s.cab.dock d).state = .seating ∨ (s.cab.dock d).state = .enrolling ∨ (s.cab.dock d).state = .vacating →
        answers d.num (refuse .busy)) ∧
      ((s.cab.dock d).state = .empty → answers d.num (refuse .notFound)) ∧
      ((s.cab.dock d).state = .faulted → ∃ t, exec (.reEnroll h d.num) s = .next t ∧
        (t.cab.dock d).state = .enrolling ∧ (t.cab.dock d).fault = none ∧
        (t.cab.dock d).placement = some ⟨s.cab.set.dockTable.get d, s.cab.envelopes.get d⟩ ∧
        (t.cab.dock d).exchange = some newExchange ∧ (t.cab.dock d).verdictDue = none ∧ (t.cab.dock d).lamp = .on ∧
        (t.cab.dock d).power = (s.cab.dock d).power ∧ (t.cab.dock d).powerUp = (s.cab.dock d).powerUp ∧
        (s.cab.activeOrders = [] → t.cab.map =
          (s.cab.map.install (.dock d) (s.cab.envelopes.get d)).trim (.dock d) (s.cab.envelopes.get d)) ∧
        t.cab.Pends (.dock d) ∧ (∀ e, e ≠ d → (t.cab.dock e).fixed = (s.cab.dock e).fixed) ∧ t.cab.set = s.cab.set ∧
        t.port.power = .awake ∧ s.Answered t b 14 h (okWith [])))

/-- R31, R33, R34, R177: WRITE_GEOMETRY, a removal among them, and WRITE_DOCK_TABLE. From another class than SERVICE they are
REFUSED_ACCESS; then, in this order, an unknown kind, a revision above 15, and contents or placements that are not well formed are
BAD_ARGUMENT; a removal of a key that no live entry has is NOT_FOUND, a new key with 8 live entries TABLE_FULL; with a write of
either record in progress all are BUSY; a change that leaves a dock's largest cell set above its 96 cells is BAD_ARGUMENT with the
lowest such dock. None of these changes anything. A write that passes changes the table and computes the envelopes again, in the
request's own event, marks the write in progress and its record due, and changes nothing else. The table of R31 that contents keep
to, and the ranges of R33 for each of five placements, are written out in RawGeometry.WellFormed and RawPlacement.WellFormed, and
what is written in their Makes; the code of the mirror flag is log 58. The check of R34 is on the envelope of each placement, the
union over the entries of its kind and every combination of their stations and the shifts of the slide reach, and on the
full-reach union of each entry concerned, with the shifts 0 to 15; for WRITE_GEOMETRY it is that of the entry written, at the
placements in force and at the copies of the docks in ENROLLING. -/
def Obligations.TableWritesChangeTheTable : Prop :=
  let combined (e : GeomEntry) (y : RelCell) : Prop := ∃ (base : Option Nat) (recline head : Nat),
    (∀ b, base = some b → b < e.base.length) ∧ recline < e.recline.length ∧
      (∀ l, e.headrest = some l → head < l.length) ∧ (e.headrest = none → head = 0) ∧ e.Has base recline head y
  let reaches (e : GeomEntry) (pl : Placement) (shift : Nat → Prop) (x : Cell) : Prop :=
    ∃ j y, shift j ∧ combined e y ∧ pl.Puts j y x
  let inEnvelope (entry : GeomEntry → Prop) (pl : Placement) (x : Cell) : Prop := ∃ e, entry e ∧ e.kind = pl.kind ∧
    reaches e pl (fun j => (∀ mm, e.reach = some mm → j ≤ (mm + 99) / 100) ∧ (e.reach = none → j = 0)) x
  let inFullReach (e : GeomEntry) (pl : Placement) (x : Cell) : Prop :=
    reaches e pl (fun j => j ≤ 15 ∧ (e.reach = none → j = 0)) x
  let tooMany (P : Cell → Prop) : Prop := ∃ l : List Cell, l.Nodup ∧ l.length = 97 ∧ ∀ x ∈ l, P x
  let first (P : Dock → Prop) (d : Dock) : Prop := P d ∧ ∀ e, e.num < d.num → ¬ P e
  (∀ (c : Cabin) (e : GeomEntry) (d : Dock),
    let after (x : GeomEntry) : Prop := x = e ∨ x ∈ c.set.geometry ∧ ¬ (x.kind = e.kind ∧ x.revision = e.revision)
    c.entryTooLarge? (putEntry c.set.geometry e) e = some d ↔ first (fun f =>
      let pl := c.set.dockTable.get f
      tooMany (inEnvelope after pl) ∨ pl.kind = e.kind ∧ tooMany (inFullReach e pl) ∨
        (c.dock f).state = .enrolling ∧ ∃ p, (c.dock f).placement = some p ∧ p.place.kind = e.kind ∧ tooMany (inFullReach e p.place)) d) ∧
  (∀ (table : List GeomEntry) (new : PerDock Placement) (d : Dock),
    tableTooLarge? table new = some d ↔ first (fun f =>
      tooMany (inEnvelope (· ∈ table) (new.get f)) ∨
        ∃ e ∈ table, e.kind = (new.get f).kind ∧ tooMany (inFullReach e (new.get f))) d) ∧
  ∀ (h : ReqHdr) (s : State) (b : IdentBinding), s.Takes h b →
    let set := s.cab.set
    let busy := s.store.geometryBusy = true ∨ s.store.dockTableBusy = true
    let changed (t : State) (g : List GeomEntry) (d : PerDock Placement) : Prop :=
      t.cab = { s.cab with set := { set with geometry := g, dockTable := d }, envelopes := envelopes g d } ∧ s.SameBeside t
    let refusedG (k rev : Nat) (g : Option RawGeometry) (a : Answer) : Prop :=
      ∃ t, exec (.writeGeometry h k rev g) s = .next t ∧ s.OnlyAnswers t b 15 h a
    let refusedT (p : List RawPlacement) (a : Answer) : Prop :=
      ∃ t, exec (.writeDockTable h p) s = .next t ∧ s.OnlyAnswers t b 16 h a
    let live (k : UnitKind) (rev : Nat) : Prop := ∃ x ∈ set.geometry, x.kind = k ∧ x.revision = rev
    let places (p : List RawPlacement) (d : PerDock Placement) : Prop :=
      ∀ e, ∃ x, p[e.num - 1]? = some x ∧ x.Makes (d.get e)
    (b.cls ≠ .service →
      (∀ k rev g, refusedG k rev g (refuse .refusedAccess)) ∧ ∀ p, refusedT p (refuse .refusedAccess)) ∧
    (b.cls = .service →
      (∀ k rev g, 2 < k ∨ 15 < rev → refusedG k rev g (refuse .badArgument)) ∧
      (∀ (k : UnitKind) (rev : Nat) (g : RawGeometry), rev ≤ 15 → ¬ g.WellFormed k →
        refusedG k.code rev (some g) (refuse .badArgument)) ∧
      (∀ (k : UnitKind) (rev : Nat) (g : RawGeometry), g.WellFormed k → ∃ e, g.Makes k rev e) ∧
      (∀ (k : UnitKind) (rev : Nat) (g : RawGeometry) (e : GeomEntry), rev ≤ 15 → g.WellFormed k → g.Makes k rev e →
        (¬ live k rev → 8 ≤ set.geometry.length → refusedG k.code rev (some g) (refuse .tableFull)) ∧
        (live k rev ∨ set.geometry.length < 8 →
          (busy → refusedG k.code rev (some g) (refuse .busy)) ∧
          (¬ busy → ∀ d, s.cab.entryTooLarge? (putEntry set.geometry e) e = some d →
            refusedG k.code rev (some g) (refuseWith .badArgument d.num)) ∧
          (¬ busy → s.cab.entryTooLarge? (putEntry set.geometry e) e = none →
            ∃ t, exec (.writeGeometry h k.code rev (some g)) s = .next t ∧ changed t t.cab.set.geometry set.dockTable ∧
              (∀ x, x ∈ t.cab.set.geometry ↔ x = e ∨ x ∈ set.geometry ∧ ¬ (x.kind = k ∧ x.revision = rev)) ∧
              { s.store with geometryBusy := true, due := t.store.due } = t.store ∧
              (∀ i, i ∈ t.store.due ↔ i = .geometry ∨ i ∈ s.store.due) ∧ s.Answered t b 15 h (okWith [])))) ∧
      (∀ (k : UnitKind) (rev : Nat), rev ≤ 15 →
        (¬ live k rev → refusedG k.code rev none (refuse .notFound)) ∧
        (live k rev → busy → refusedG k.code rev none (refuse .busy)) ∧
        (live k rev → ¬ busy →
          ∃ t, exec (.writeGeometry h k.code rev none) s = .next t ∧ changed t t.cab.set.geometry set.dockTable ∧
            (∀ x, x ∈ t.cab.set.geometry ↔ x ∈ set.geometry ∧ ¬ (x.kind = k ∧ x.revision = rev)) ∧
            { s.store with geometryBusy := true, due := t.store.due } = t.store ∧
            (∀ i, i ∈ t.store.due ↔ i = .geometry ∨ i ∈ s.store.due) ∧ s.Answered t b 15 h (okWith []))) ∧
      ∀ p : List RawPlacement,
        let formed : Prop := p.length = 5 ∧ ∀ x ∈ p, x.WellFormed
        (¬ formed → refusedT p (refuse .badArgument)) ∧
        (formed → ∃ d, places p d) ∧
        ∀ d : PerDock Placement, formed → places p d →
          (busy → refusedT p (refuse .busy)) ∧
          (¬ busy → ∀ e, tableTooLarge? set.geometry d = some e → refusedT p (refuseWith .badArgument e.num)) ∧
          (¬ busy → tableTooLarge? set.geometry d = none →
            ∃ t, exec (.writeDockTable h p) s = .next t ∧ changed t set.geometry d ∧
              { s.store with dockTableBusy := true, due := t.store.due } = t.store ∧
              (∀ i, i ∈ t.store.due ↔ i = .dockTable ∨ i ∈ s.store.due) ∧ s.Answered t b 16 h (okWith [])))

/-- R119, R120: SET_OVERRIDE stores one parameter of one place, its value clamped to the parameter's range (8 to 400, 4 to 64, 10 to 50,
20 to 2000), or clears it, and keeps the three others and every other place; a kind, axis or parameter out of
the table is BAD_ARGUMENT. The value in force is the override where one is present, a speed held to the axis's own maximum, and
else the automatic value, computed at enrolment from travel and maximum speed. Another class than SERVICE is REFUSED_ACCESS. The value's
bytes in the response are log 31. -/
def Obligations.OverridesAreClampedAndStored : Prop :=
  (∀ (h : ReqHdr) (s : State) (b : IdentBinding) (u : UnitKind) (k : AxisKind) (p : Param) (code : Nat) (v : Option Nat),
    s.Takes h b → b.cls = .service → Param.ofCode? code = some p →
    (k ∉ u.axes → ∃ t, exec (.setOverride h u.code k.code code v) s = .next t ∧
      s.OnlyAnswers t b 17 h (refuse .badArgument)) ∧
    (k ∈ u.axes → ∃ t, exec (.setOverride h u.code k.code code v) s = .next t ∧ s.SameBeside t ∧ s.SetsDue t .overrides ∧
      { t.cab with set := { t.cab.set with overrides := s.cab.set.overrides } } = s.cab ∧
      (∀ u' k', (t.cab.set.override? u' k') = (s.cab.set.override? u' k').map fun o =>
        if u' = u ∧ k' = k then o.put p (v.map p.clamp) else o) ∧
      s.Answered t b 17 h (okWith (optWord (v.map p.clamp))))) ∧
  (∀ (h : ReqHdr) (s : State) (b : IdentBinding) (u k p : Nat) (v : Option Nat), s.Takes h b →
    (b.cls ≠ .service → ∃ t, exec (.setOverride h u k p v) s = .next t ∧ s.OnlyAnswers t b 17 h (refuse .refusedAccess)) ∧
    (b.cls = .service → UnitKind.ofCode? u = none ∨ AxisKind.ofCode? k = none ∨ Param.ofCode? p = none →
      ∃ t, exec (.setOverride h u k p v) s = .next t ∧ s.OnlyAnswers t b 17 h (refuse .badArgument))) ∧
  (∀ code, Param.ofCode? code = [Param.ramp, .creep, .creepSpeed, .speed][code]?) ∧
  (∀ (p : Param) (v : Nat),
    let within (lo hi : Nat) : Prop := p.clamp v = max lo (min hi v)
    match p with
    | .ramp => within 8 400
    | .creep => within 4 64
    | .creepSpeed => within 10 50
    | .speed => within 20 2000) ∧
  (∀ (o : Override) (p : Param) (v : Option Nat),
    let holds (o : Override) (p : Param) : Option Nat := match p with
      | .ramp => o.ramp
      | .creep => o.creep
      | .creepSpeed => o.creepSpeed
      | .speed => o.speed
    (o.put p v).unit = o.unit ∧ (o.put p v).axis = o.axis ∧ ∀ q, holds (o.put p v) q = if q = p then v else holds o q) ∧
  ∀ (a : Axis) (o : Override),
    (a.inForce (some o)).ramp = o.ramp.getD a.auto.ramp ∧ (a.inForce (some o)).creep = o.creep.getD a.auto.creep ∧
    (a.inForce (some o)).creepSpeed = o.creepSpeed.getD a.auto.creepSpeed ∧
    (∀ v, o.speed = some v → (a.inForce (some o)).speed = min v a.maxSpeed) ∧
    (o.speed = none → (a.inForce (some o)).speed = a.auto.speed) ∧ a.inForce none = a.auto ∧
    ∀ (e : GeomEntry) (trust : Bool) (p : AxisPage), (newAxis e trust p).auto =
      ⟨max 8 (min 400 (p.travel / 8)), max 4 (min 64 (p.travel / 32)), 25, p.maxSpeed⟩

/-- R102, R104, R111, R178, R151, R169: SET_BUDGET takes the limit clamped to 80 to 400, recomputes the effective budget and
leaves no more held than that; a fall withdraws grants, level 0 before level 1 and newest first, until the sum held fits, and a
rise or a withdrawal is followed by a pass. A withdrawn grant leaves the list and its axis brakes: a step in STARTING or RUNNING
goes back to POWERING with its claim and makes a fresh request, one in STOPPING goes on by its stop cause (log 49), one in
REVERSING fails with OBSTRUCTED and an incomplete reverse; the map settles the dock, its reservation kept where the claim is. The
response carries B, E and the sum held once all this is made, the pass with it (log 59), and the write is due even where the value
stands. SET_LIMITS clamps every item to its range, brings touch threshold and hysteresis into order with a new prox threshold, and
answers the value taken; an unknown item or notice mode and an identifier binding that R169 refuses are BAD_ARGUMENT (the place
written does not count against itself, log 24); the ranges hold after an accepted write if they held before. Both are
REFUSED_ACCESS from another class than SERVICE. The bytes of the data are log 31. -/
def Obligations.BudgetAndLimitsAreTaken : Prop :=
  (∀ (h : ReqHdr) (s : State) (b : IdentBinding) (limit : Nat), s.Takes h b →
    (b.cls ≠ .service → ∃ t, exec (.setBudget h limit) s = .next t ∧ s.OnlyAnswers t b 18 h (refuse .refusedAccess)) ∧
    (b.cls = .service →
      let B := if limit < 80 then 80 else if 400 < limit then 400 else limit
      let E := effectiveBudget B s.port.voltageInForce
      let c := ({ s.cab with set := { s.cab.set with budget := B } }.changeBudget E).cascade
      ∃ t, exec (.setBudget h limit) s = .next t ∧ t.cab = c.cascade ∧ (c.agenda = [] → t.cab = c) ∧
        t.cab.set = { s.cab.set with budget := B } ∧ t.cab.arb.budget = E ∧
        (s.cab.arb.Fits → t.cab.arb.held ≤ E ∧ c.arb.held ≤ E) ∧ s.SameBeside t ∧ s.SetsDue t .budget ∧
        (∀ d, (t.cab.dock d).fixed = (s.cab.dock d).fixed) ∧ t.cab.pool.next = s.cab.pool.next ∧
        (E = s.cab.arb.budget → t.cab = { s.cab with set := { s.cab.set with budget := B } } ∧ c.arb.held = s.cab.arb.held) ∧
        s.Answered t b 18 h (okWith (wordOf B ++ wordOf E ++ wordOf c.arb.held)))) ∧
  (∀ (c : Cabin) (e : Nat),
    let c' := { c with arb := { c.arb with budget := e } }
    let l := (c.arb.grants.filter fun g => g.level = 0).reverse ++ (c.arb.grants.filter fun g => g.level ≠ 0).reverse
    let left (k : Nat) : Cabin := (l.take k).foldl Cabin.withdraw c'
    (e = c.arb.budget → c.changeBudget e = c) ∧
    (c.arb.budget < e → c.changeBudget e = { c' with agenda := c.agenda ++ [.pass] }) ∧
    (e < c.arb.budget → c.arb.held ≤ e → c.changeBudget e = c') ∧
    (e < c.arb.budget → e < c.arb.held → ∃ k, k ≤ l.length ∧ c.changeBudget e = (left k).spawn [.pass] ∧
      (∀ j, j < k → (left j).arb.budget < (left j).arb.held) ∧
      (k < l.length → (left k).arb.held ≤ (left k).arb.budget))) ∧
  (∀ (c : Cabin) (g : Grant) (a : Axis) (m : Move) (o : Order) (x : Step), c.pool.Named → c.step? g.step = some (o, x) →
    x.dock = g.dock → (∀ y ∈ o.steps, y.index = x.index → y = x) → c.driven? g.dock = some (a, m) → m.step = g.step →
    c.axis? g.dock a.kind = some a →
    let t := c.withdraw g
    let d := g.dock
    let F := (c.dock d).footprint
    let becomes (P : Step → Prop) : Prop := ∃ o' y, t.pool.recs.get o.slot = some o' ∧ y ∈ o'.steps ∧ y.index = x.index ∧ P y
    let keeps : Prop := t.map.reserved = c.map.reserved ∧
      (c.map.reserved.get d = none → t.map = (c.map.install (.dock d) F).trim (.dock d) F) ∧
      ∀ R, c.map.reserved.get d = some R → t.map = (c.map.install (.dock d) F).trim (.dock d) (F.union R)
    let drops : Prop := t.map = ((c.map.unreserve d).install (.dock d) F).trim (.dock d) F
    let again : Prop := o.firstFailure = none ∧ o.cancelTaken = false ∧ d ∉ o.superseded
    t.arb.grants = (c.arb.grants.filter fun k => k.step != g.step) ∧ t.arb.budget = c.arb.budget ∧
    (x.state.inMotion = true → (t.dock d).command = .brake ∧ t.arb.window.get d = none ∧ t.Pends (.posture d) ∧
      t.Pends (.order o.slot) ∧ ∃ b, t.axis? d a.kind = some b ∧ b.count = a.count ∧ b.overrun = a.overrun ∧ b.ref = a.ref ∧
        b.cond = .settling ∧ b.move = none) ∧
    (x.state = .starting ∨ x.state = .running → keeps ∧
      becomes (fun y => y.state = .powering ∧ y.holds = x.holds ∧ y.claimFrom = x.claimFrom) ∧
      ∀ e, t.arb.requests.get e =
        if e = d then some ⟨g.step, g.level, g.amount, c.now + 15000⟩ else c.arb.requests.get e) ∧
    (x.state = .stopping →
      (x.stopCause = some .cancel ∨ x.stopCause = some .supersede → drops ∧ becomes fun y => y.state = .skipped ∧ y.holds = false) ∧
      (x.stopCause = some .release → drops ∧ becomes fun y => y.state = .done ∧ y.holds = false) ∧
      (x.stopCause = some .pause → again → keeps ∧ becomes fun y => y.state = .claiming ∧ y.holds = x.holds) ∧
      (x.stopCause = some .pause → ¬ again → drops ∧ becomes fun y => y.state = .skipped ∧ y.holds = false)) ∧
    (x.state = .reversing → t.FirstFails o ⟨d, x.axis, .obstructed, true⟩ ∧
      ((∀ y ∈ o.steps, y.index ≠ x.index → y.holds = false) → drops) ∧
      becomes fun y => y.state = .failed ∧ y.failure = some (.obstructed, true) ∧ y.holds = false)) ∧
  let clamp (lo hi v : Nat) : Nat := max lo (min hi v)
  let put (l : Limits) (k : ChanKind) (t : Thresholds) : Limits := match k with
    | .cushion => { l with cushion := t }
    | .back => { l with back := t }
    | .lid => { l with lid := t }
    | .strip => { l with strip := t }
  let takes (w : LimitWrite) (l l' : Limits) (n : Nat) : Prop := match w with
    | .blockWait v => n = clamp 1 60 v ∧ l' = { l with blockWait := n }
    | .currentFilter v => n = clamp 16 255 v ∧ l' = { l with currentFilter := n }
    | .slideMargin v => n = clamp 200 5000 v ∧ l' = { l with slideMargin := n }
    | .axisMargin v => n = clamp 200 5000 v ∧ l' = { l with axisMargin := n }
    | .reverseDistance v => n = clamp 8 200 v ∧ l' = { l with reverseDistance := n }
    | .presenceFilter v => n = clamp 16 255 v ∧ l' = { l with presenceFilter := n }
    | .tuningBand v => n = clamp 80 1600 v ∧ l' = { l with tuningBand := n }
    | .prox k v => n = clamp 4 250 v ∧
        l' = put l k ⟨n, max (l.thresholds k).touch (n + 1), min (l.thresholds k).hysteresis (n - 1)⟩
    | .touch k v => n = clamp ((l.thresholds k).prox + 1) 500 v ∧ l' = put l k { l.thresholds k with touch := n }
    | .hysteresis k v => n = clamp 1 ((l.thresholds k).prox - 1) v ∧ l' = put l k { l.thresholds k with hysteresis := n }
    | .noticeMode code => code ≤ 1 ∧ n = code ∧ l' = { l with stream := decide (code = 1) }
    | .identifier _ _ | .unknown _ => False
  let ordered (t : Thresholds) : Prop := 4 ≤ t.prox ∧ t.prox ≤ 250 ∧ t.prox < t.touch ∧ t.touch ≤ 500 ∧ 1 ≤ t.hysteresis ∧
    t.hysteresis < t.prox
  let ranged (l : Limits) : Prop := (1 ≤ l.blockWait ∧ l.blockWait ≤ 60) ∧ (16 ≤ l.currentFilter ∧ l.currentFilter ≤ 255) ∧
    (200 ≤ l.slideMargin ∧ l.slideMargin ≤ 5000) ∧ (200 ≤ l.axisMargin ∧ l.axisMargin ≤ 5000) ∧
    (8 ≤ l.reverseDistance ∧ l.reverseDistance ≤ 200) ∧ (16 ≤ l.presenceFilter ∧ l.presenceFilter ≤ 255) ∧
    (80 ≤ l.tuningBand ∧ l.tuningBand ≤ 1600) ∧ ordered l.cushion ∧ ordered l.back ∧ ordered l.lid ∧ ordered l.strip
  (∀ (w : LimitWrite) (l l' : Limits) (n : Nat), ranged l → takes w l l' n → ranged l') ∧
  ∀ (h : ReqHdr) (s : State) (b : IdentBinding) (w : LimitWrite), s.Takes h b →
    let refused (code : Code) : Prop := ∃ t, exec (.setLimits h w) s = .next t ∧ s.OnlyAnswers t b 19 h (refuse code)
    (b.cls ≠ .service → refused .refusedAccess) ∧
    (b.cls = .service →
      (∀ item, w = .unknown item → refused .badArgument) ∧
      (∀ code, w = .noticeMode code → 1 < code → refused .badArgument) ∧
      (∀ l n, takes w s.cab.set.limits l n →
        ∃ t, exec (.setLimits h w) s = .next t ∧ t.cab.set = { s.cab.set with limits := l } ∧ s.SameBeside t ∧
          s.SetsDue t .limits ∧ (∀ d, (t.cab.dock d).fixed = (s.cab.dock d).fixed) ∧ t.cab.arb.budget = s.cab.arb.budget ∧
          t.cab = (({ s.cab with set := { s.cab.set with limits := l } }.modeWritten s.cab.set.limits.stream).expireWaits).cascade ∧
          (s.cab.activeOrders = [] → t.cab = { s.cab with
            set := { s.cab.set with limits := l }
            streams := if l.stream = s.cab.set.limits.stream then s.cab.streams else .rep none }) ∧
          s.Answered t b 19 h (okWith (wordOf n))) ∧
      ∀ place p, w = .identifier place p →
        let r := s.cab.set.identifiers
        let keepsService (r : IdentRecord) : Prop := ∃ (i : Nat) (x : IdentBinding), r.places[i]? = some (some x) ∧ x.cls = .service
        let written (x : Option IdentBinding) (data : List Byte) : Prop :=
          let r' := { r with places := r.places.set place x }
          (15 < place ∨ ¬ keepsService r' → refused .badArgument) ∧
          (place ≤ 15 → keepsService r' → ∃ t, exec (.setLimits h w) s = .next t ∧
            t.cab = { s.cab with set := { s.cab.set with identifiers := r' } } ∧ s.SameBeside t ∧ s.SetsDue t .identifiers ∧
            s.Answered t b 19 h (okWith data))
        (p = none → written none [255, 255, 255, 255, 255]) ∧
        ∀ x, p = some x →
          let clashes : Prop := (∃ (i : Nat) (y : IdentBinding), i ≠ place ∧ r.places[i]? = some (some y) ∧
              (x.request = y.request ∨ x.request = y.response)) ∨
            x.request ∈ [r.notice, r.vehicle, r.intrusion, r.sleep] ∨ x.response = r.notice
          (ReqClass.ofCode? x.cls = none ∨ clashes → refused .badArgument) ∧
          ∀ k, ReqClass.ofCode? x.cls = some k → ¬ clashes →
            written (some ⟨x.request, x.response, k⟩) (wordOf x.request ++ wordOf x.response ++ [byteOf x.cls]))

/-- R88, R89, R90, R91, R105, R107, R108, R109, R110: how a step comes to its motion. A dock's first step that is not DONE leaves
PENDING where its order is ACTIVE and no other order moves the dock, and its start checks are made in order. A claim attempt ends
in a failure, in a wait with its blocker, or in POWERING with the claim; an arrival of R91 brings one attempt to every step in
CLAIMING of an ACTIVE order. A step in POWERING has its request with 15 s to wait. A pass chooses a head by level, level-0 due and
pointers, grants what fits, and stops with no request left or a head that does not fit and that no level-1 request may pass; a
grant moves the pointers, opens the start window of 400 ms and takes the step to STARTING, unless the dock is occupied and the
step restricted: then the step fails in the same event, its order's waiting steps become SKIPPED (R95), and a pass follows. A
DISABLED axis (log 26) and one in REFERENCE_FAULT (log 48) refuse the grant alike. What each of these tells is left in the agenda
(log 3); the wait start of a REFERENCE_WAIT is log 50. R121, R122, R134, R135: the granted step's axis is DRIVEN, its drift taken
into its position, with a new move and watch record from the profile and limits in force (the last setpoint sent is 0, log 52) and
the motor command of the setpoint at progress 0; a plain move within 2 counts of its target sends none and arrives at once, its
axis left SETTLING (log 53), before its fold-path channel is read (log 55) and once the pass has stopped (log 70). What a grant to
a fold step tells is taken once the pass has stopped (log 84). -/
def Obligations.StepsAreSequencedAndArbitrated : Prop :=
  let becomes (c : Cabin) (o : Order) (x : Step) (P : Step → Prop) : Prop :=
    ∃ o' y, c.pool.recs.get o.slot = some o' ∧ y ∈ o'.steps ∧ y.index = x.index ∧ P y
  let fails (c : Cabin) (o : Order) (x : Step) (why : Reason) : Prop :=
    becomes c o x (fun y => y.state = .failed ∧ y.failure = some (why, false) ∧ y.holds = false) ∧
      c.FirstFails o ⟨x.dock, x.axis, why, false⟩
  let once (o : Order) (x : Step) : Prop := ∀ y ∈ o.steps, y.index = x.index → y = x
  let may (c : Cabin) (o : Order) (x : Step) : Prop := o.state = .active ∧ x.state = .pending ∧
    (∃ before after, o.steps = before ++ x :: after ∧ ∀ y ∈ before, y.dock = x.dock → y.state = .done) ∧
    ∀ p ∈ c.activeOrders, p.number ≠ o.number → ∀ y ∈ p.steps, y.dock = x.dock → y.state.inMotion = false
  (∀ (c : Cabin) (d : Dock), (∀ o ∈ c.activeOrders, ∀ x ∈ o.steps, x.dock = d → ¬ may c o x) → Cabin.runTask (.testDock d) c = c) ∧
  (∀ (c : Cabin) (older younger : List Order) (o : Order) (x : Step) (a : Axis), c.pool.Named →
    c.activeOrders = older ++ o :: younger → (∀ p ∈ older, ∀ y ∈ p.steps, y.dock = x.dock → ¬ may c p y) → may c o x → once o x →
    c.axis? x.dock x.axis = some a →
    let t := Cabin.runTask (.testDock x.dock) c
    let there : Prop := x.kind = .move ∧ a.ref = .referenced ∧ a.count = x.target
    let held : Prop := x.restricted (c.dock x.dock) = true ∧ (c.dock x.dock).occupancy ≠ .none
    (a.enabled = false → fails t o x .driveFault) ∧
    (a.enabled = true → there → becomes t o x (fun y => y.state = .done) ∧ .testDock x.dock ∈ t.agenda ∧ t.map = c.map) ∧
    (a.enabled = true → ¬ there → held → fails t o x .occupied) ∧
    (a.enabled = true → ¬ there → ¬ held → t.map = c.map ∧ t.arb = c.arb ∧ t.agenda = c.agenda ++ [.attempt (o.ref x)] ∧
      becomes t o x fun y => y.state = .claiming ∧ y.blocker = none ∧ y.waitStart = none ∧ y.fold = x.folds (c.dock x.dock))) ∧
  (∀ (c : Cabin) (o : Order) (x : Step) (a : Axis), c.pool.Named → c.pool.Numbered → o ∈ c.activeOrders → x ∈ o.steps → once o x →
    c.axis? x.dock x.axis = some a →
    let t := Cabin.runTask (.attempt (o.ref x)) c
    let waits (b : Blocker) : Prop := t.map = c.map ∧ t.agenda = c.agenda ∧
      becomes t o x (fun y => y.state = .claiming ∧ y.blocker = some b ∧ y.waitStart = some (x.waitStart.getD c.now) ∧
        y.holds = x.holds) ∧
      (c.ready x.dock = true → (t.dock x.dock).attention = .wait o.number ∧ (t.dock x.dock).lamp = .blinkFast)
    let powers (m : CellMap) (start : Nat) : Prop := t.map = m ∧ t.agenda = c.agenda ++ [.request (o.ref x)] ∧
      becomes t o x fun y => y.state = .powering ∧ y.holds = true ∧ y.claimFrom = start ∧ y.blocker = none ∧ y.waitStart = none
    let early : Prop := ∃ k, a.faultTime = some k ∧ c.now < k + 30000
    let passes : Prop := a.ref = .referenceFault → x.kind = .homing ∧ ¬ early
    let object : Prop := x.fold = true ∧ ∃ z, (c.dock x.dock).chan? x.foldChannel = some z ∧ z.state ≠ .none
    (o.state ≠ .active ∨ x.state ≠ .claiming → t = c) ∧
    (o.state = .active → x.state = .claiming →
      (a.ref = .referenceFault → x.kind ≠ .homing → fails t o x .referenceFault) ∧
      (a.ref = .referenceFault → x.kind = .homing → early → t.map = c.map ∧ t.agenda = c.agenda ∧
        becomes t o x fun y => y.state = .claiming ∧ y.blocker = some .referenceWait ∧ y.waitStart = none ∧ y.holds = x.holds) ∧
      (passes → object → waits (.object x.foldChannel)) ∧
      (passes → ¬ object → x.holds = true → powers c.map x.claimFrom) ∧
      (passes → ¬ object → x.holds = false →
        (∀ m, c.map.claim x.dock (c.sweepOf x a.count) = .ok m → powers m a.count) ∧
        (∀ e, c.map.claim x.dock (c.sweepOf x a.count) = .error (.dock e) → waits (.dock e)) ∧
        ∀ g, c.map.claim x.dock (c.sweepOf x a.count) = .error g → g = .frontL ∨ g = .frontR → waits (.external g))) ∧
    let t := Cabin.runTask (.request (o.ref x)) c
    (x.state = .powering → t.agenda = c.agenda ++ [.pass] ∧ { t with agenda := c.agenda, arb := c.arb } = c ∧
      { t.arb with requests := c.arb.requests } = c.arb ∧
      ∀ d, t.arb.requests.get d =
        if d = x.dock then some ⟨o.ref x, if o.urgency = .egress then 1 else 0, a.rated, c.now + 15000⟩ else c.arb.requests.get d)) ∧
  (∀ c : Cabin, ∃ l, Cabin.runTask .retryClaims c = { c with agenda := c.agenda ++ l } ∧ ∀ k, k ∈ l ↔
    ∃ o ∈ c.activeOrders, o.state = .active ∧ ∃ x ∈ o.steps, x.state = .claiming ∧ k = .attempt (o.ref x)) ∧
  (∀ r : Arbiter, r.head = none →
    let distance (p e : Dock) : Nat := (e.num + 4 - p.num) % 5
    let wants (level : Nat) (e : Dock) : Prop := ∃ q, r.requests.get e = some q ∧ q.level = level
    let next (level : Nat) (p e : Dock) : Prop := wants level e ∧ ∀ f, wants level f → distance p e ≤ distance p f
    (∀ e, r.due0 = true → next 0 r.pointer0 e → r.chooseHead = { r with head := some e, due0 := false }) ∧
    (∀ e, r.due0 = false ∨ (∀ f, ¬ wants 0 f) → next 1 r.pointer1 e → r.chooseHead = { r with head := some e }) ∧
    (∀ e, r.due0 = false → (∀ f, ¬ wants 1 f) → next 0 r.pointer0 e → r.chooseHead = { r with head := some e })) ∧
  (∀ c : Cabin, (∀ d q, c.arb.requests.get d = some q → q.level ≤ 1) →
    (∀ d, c.arb.head = some d → (c.arb.requests.get d).isSome = true) →
    let r := (Cabin.runTask .pass c).arb
    r.budget = c.arb.budget ∧ (c.arb.Fits → r.Fits) ∧ (r.head = none → ∀ d, r.requests.get d = none) ∧
    (∀ d, r.head = some d → ∃ q, r.requests.get d = some q ∧ r.budget < r.held + q.amount ∧
      (q.level = 0 → ∀ e p, r.requests.get e = some p → p.level = 1 → r.budget < r.held + p.amount)) ∧
    (∀ d, r.requests.get d = c.arb.requests.get d ∨ r.requests.get d = none) ∧
    ∃ l, r.grants = c.arb.grants ++ l ∧ ∀ g ∈ l, r.requests.get g.dock = none ∧
      ∃ q, c.arb.requests.get g.dock = some q ∧ g = ⟨g.dock, q.step, q.level, q.amount⟩) ∧
  (∀ (c : Cabin) (d : Dock) (a : Axis) (m : Move) (o : Order) (x : Step), c.pool.Named → c.driven? d = some (a, m) →
    c.axis? d a.kind = some a → c.step? m.step = some (o, x) → c.movingStep? d = some (o, x) → once o x → x.state = .starting →
    let t := Cabin.runTask (.arriveAtOnce d) c
    let F := (c.dock d).footprint
    becomes t o x (fun y => y.state = .done ∧ y.holds = false) ∧ t.arb.window.get d = none ∧ (t.dock d).command = .brake ∧
      .release m.step ∈ t.agenda ∧ t.map = ((c.map.unreserve d).install (.dock d) F).trim (.dock d) F ∧ t.Pends (.posture d) ∧
      ∃ b, t.axis? d a.kind = some b ∧ b.count = a.count ∧ b.cond = .settling ∧ b.move = none) ∧
  ∀ (c : Cabin) (d : Dock) (q : Request) (o : Order) (x : Step), c.pool.Named → c.step? q.step = some (o, x) →
    let t := c.grantTo d q
    let kept : Prop := x.restricted (c.dock x.dock) = true ∧ (c.dock x.dock).occupancy ≠ .none
    let sound : Prop := ∀ a, c.axis? x.dock x.axis = some a → a.enabled = true ∧ (a.ref = .referenceFault → x.kind = .homing)
    let refused (why : Reason) : Prop := t.arb.grants = c.arb.grants ∧ fails t o x why ∧
      (∀ y ∈ o.steps, y.index ≠ x.index → y.state = .pending ∨ y.state = .claiming ∨ y.state = .powering →
        becomes t o y fun z => z.state = .skipped ∧ z.holds = false) ∧
      ∃ l, t.agenda = c.agenda ++ l ++ [.pass] ∧ ∀ k ∈ l, k = .retryClaims ∨ k = .pass
    t.arb.budget = c.arb.budget ∧ t.arb.requests.get d = none ∧
    (∀ e, t.arb.requests.get e = c.arb.requests.get e ∨ t.arb.requests.get e = none) ∧
    (q.level = 0 → t.arb.pointer0 = d ∧ t.arb.pointer1 = c.arb.pointer1 ∧ t.arb.due0 = c.arb.due0) ∧
    (q.level = 1 → t.arb.pointer1 = d ∧ t.arb.pointer0 = c.arb.pointer0 ∧
      t.arb.due0 = (c.arb.due0 || decide (d.num ≤ c.arb.pointer1.num))) ∧
    (kept → refused .occupied) ∧
    (∀ a, ¬ kept → c.axis? x.dock x.axis = some a → a.enabled = false → refused .driveFault) ∧
    (∀ a, ¬ kept → c.axis? x.dock x.axis = some a → a.enabled = true → a.ref = .referenceFault → x.kind ≠ .homing →
      refused .referenceFault) ∧
    (¬ kept → sound → t.map = c.map ∧ t.arb.head = c.arb.head ∧
      (∀ e, e ≠ d → t.arb.requests.get e = c.arb.requests.get e) ∧
      t.arb.grants = c.arb.grants ++ [⟨d, q.step, q.level, q.amount⟩] ∧
      t.arb.window.get d = some (c.now + 400) ∧ becomes t o x (fun y => y.state = .starting ∧ y.holds = x.holds) ∧
      t.streams.get d =
        if c.set.limits.stream = true ∧ c.inMotion d = false then some (c.now + 100) else c.streams.get d) ∧
    ∀ a, ¬ kept → sound → c.axis? x.dock x.axis = some a →
      let b : Axis := { a.moveBy a.drift with drift := 0 }
      let p : Profile := ((c.dock x.dock).identity.map fun i => b.inForce (c.set.override? i.kind x.axis)).getD b.auto
      let m := newMove c.set.limits p b (o.ref x) x.kind x.target
      let plain : Prop := x.kind ≠ .homing ∧ x.target ≠ 0 ∧ x.target ≠ a.travel
      let full := m.fullSpeed x.axis (c.dock x.dock).occupancy
      let creep := m.creepSpeed x.axis (c.dock x.dock).occupancy
      t.axis? x.dock x.axis = some { b with cond := .driven, move := some m } ∧
      (m.step = o.ref x ∧ m.kind = x.kind ∧ m.start = b.count ∧ m.target = x.target ∧ (m.dir = .increase ↔ b.count < x.target) ∧
        m.profile = p ∧ m.lastSetpoint = 0 ∧ m.stall = none ∧ m.runLength = 0 ∧ m.stop = none) ∧
      (m.watch.filtered = none ∧ m.watch.judging = false ∧ m.watch.currentCount = 0 ∧ m.watch.speedCount = 0 ∧
        m.watch.previous = none ∧ m.watch.occupiedSeen = false ∧ m.watch.obstruction = none ∧
        m.watch.sums = List.replicate b.baselines.length (0, 0) ∧ m.watch.beta = c.set.limits.currentFilter ∧
        m.watch.margin = (if x.axis = .slide then c.set.limits.slideMargin else c.set.limits.axisMargin) ∧
        m.watch.reverse = c.set.limits.reverseDistance) ∧
      (plain → m.distance ≤ 2 → t.agenda = c.agenda ++ [.arriveAtOnce x.dock] ∧
        (t.dock x.dock).command = (c.dock x.dock).command) ∧
      (¬ plain ∨ 2 < m.distance → t.agenda = c.agenda ++ (if x.fold then [.foldAtGrant x.dock] else []) ∧
        (t.dock x.dock).command = .drive (c.axisIndex x.dock x.axis) m.dir (m.setpointAt full creep 0))

/-- R166: WRITE_BINDINGS replaces the whole table where every binding keeps to the rule's table (written out in
RawBinding.WellFormed, what it makes in RawBinding.Makes) and there are at most 8, and answers their count; else it answers the
index of the first faulty one, counted from 1, the ninth where the first eight keep to the table (log 31), and changes nothing. -/
def Obligations.WriteBindingsReplacesTheTable : Prop :=
  ∀ (h : ReqHdr) (s : State) (b : IdentBinding) (l : List RawBinding), s.Takes h b →
    (b.cls ≠ .service → ∃ t, exec (.writeBindings h l) s = .next t ∧ s.OnlyAnswers t b 20 h (refuse .refusedAccess)) ∧
    (b.cls = .service → l.length ≤ 8 → (∀ x ∈ l, x.WellFormed) →
      ∃ t, exec (.writeBindings h l) s = .next t ∧
        t.cab = { s.cab with set := { s.cab.set with bindings := t.cab.set.bindings } } ∧
        List.Forall₂ RawBinding.Makes l t.cab.set.bindings ∧ s.SameBeside t ∧ s.SetsDue t .bindings ∧
        s.Answered t b 20 h (okWith [byteOf l.length])) ∧
    (b.cls = .service → ∀ i x, l[i]? = some x → (∀ j y, j < i → l[j]? = some y → y.WellFormed ∧ j < 8) →
      ¬ x.WellFormed ∨ i = 8 →
      ∃ t, exec (.writeBindings h l) s = .next t ∧ s.OnlyAnswers t b 20 h (refuseWith .badArgument (i + 1)))

/-- R146, R157: RESEED sets a channel's reference to its filtered count and its counts to 0, the state standing where the
reference lies in the band; out of the band during a motion, re-tune is due; a channel in TUNING or FAULT is BUSY. RESEED_BASELINE
sets the reseed mark of an axis and answers its baselines as they stand. A dock number outside 1 to 5, a channel or axis kind that
is not one, and one of which the READY dock has no record, are BAD_ARGUMENT; a dock that is not READY is DOCK_NOT_READY. Neither
brings the part out of DOZE, and either is REFUSED_ACCESS from another class than SERVICE. The bytes of channel and baselines are
log 31, the unit of the time left log 62, the byte of a fault cause log 79. -/
def Obligations.ReseedsTakeTheirReference : Prop :=
  (∀ (h : ReqHdr) (s : State) (b : IdentBinding) (d n : Nat), s.Takes h b → b.cls ≠ .service →
    (∃ t, exec (.reseed h d n) s = .next t ∧ s.OnlyAnswers t b 21 h (refuse .refusedAccess)) ∧
    ∃ t, exec (.reseedBaseline h d n) s = .next t ∧ s.OnlyAnswers t b 22 h (refuse .refusedAccess)) ∧
  (∀ (h : ReqHdr) (s : State) (b : IdentBinding) (d n : Nat), s.Takes h b → b.cls = .service →
    (d < 1 ∨ 5 < d ∨ 2 < n → ∃ t, exec (.reseed h d n) s = .next t ∧ s.OnlyAnswers t b 21 h (refuse .badArgument)) ∧
    (d < 1 ∨ 5 < d ∨ 4 < n → ∃ t, exec (.reseedBaseline h d n) s = .next t ∧ s.OnlyAnswers t b 22 h (refuse .badArgument))) ∧
  ∀ (h : ReqHdr) (s : State) (b : IdentBinding) (d : Dock), s.Takes h b → b.cls = .service →
    (∀ n, (s.cab.dock d).state ≠ .ready → n ≤ 2 → ∃ t, exec (.reseed h d.num n) s = .next t ∧ t.port.power = s.port.power ∧
      s.OnlyAnswers t b 21 h (refuse .dockNotReady)) ∧
    (∀ ch : Channel, (s.cab.dock d).state = .ready → (s.cab.dock d).chan? ch = none →
      ∃ t, exec (.reseed h d.num ch.code) s = .next t ∧ s.OnlyAnswers t b 21 h (refuse .badArgument)) ∧
    (∀ k : AxisKind, (s.cab.dock d).state = .ready → s.cab.axis? d k = none →
      ∃ t, exec (.reseedBaseline h d.num k.code) s = .next t ∧ s.OnlyAnswers t b 22 h (refuse .badArgument)) ∧
    (∀ (ch : Channel) (x : Chan), (s.cab.dock d).state = .ready → (s.cab.dock d).chan? ch = some x →
      let F := x.filtered.getD 0
      let y : Chan := { x with ref16 := some (F * 16), delta := 0, proxRise := 0, touchRise := 0, touchFall := 0, proxFall := 0 }
      let becomes (t : State) (z : Chan) : Prop :=
        t.cab = s.cab.modDock d fun r => { r with chans := r.chans.map fun c => if c.kind = ch.kind then z else c }
      (x.state = .tuning ∨ x.state = .fault → ∃ t, exec (.reseed h d.num ch.code) s = .next t ∧
        s.OnlyAnswers t b 21 h { code := .busy, data := chanBytes s.cab.now x }) ∧
      (x.state = .none ∨ x.state = .prox ∨ x.state = .touch → (s.cab.dock d).chans.countP (fun c => c.kind = ch.kind) = 1 →
        ∃ t, exec (.reseed h d.num ch.code) s = .next t ∧ t.port.power = s.port.power ∧ s.SameOutside t ∧
          (s.cab.set.limits.inBand F = true → becomes t y ∧ s.Answered t b 21 h (okWith (chanBytes s.cab.now y))) ∧
          (s.cab.set.limits.inBand F = false → s.cab.inMotion d = true →
            becomes t { y with retune := true } ∧ s.Answered t b 21 h (okWith (chanBytes s.cab.now { y with retune := true }))) ∧
          (s.cab.set.limits.inBand F = false → s.cab.activeOrders = [] →
            let z : Chan :=
              { y with state := .tuning, comp := 512, search := 256, adjusted := 0, clean := 0, fault := none, retune := false }
            (t.cab.dock d).chan? ch = some z ∧ s.Answered t b 21 h (okWith (chanBytes s.cab.now z))) ∧
          ∃ data, s.Answered t b 21 h (okWith data))) ∧
    (∀ (k : AxisKind) (a : Axis), (s.cab.dock d).state = .ready → s.cab.axis? d k = some a →
      ∃ t, exec (.reseedBaseline h d.num k.code) s = .next t ∧ t.port.power = s.port.power ∧ s.SameOutside t ∧
        t.cab = s.cab.modAxis d k (fun x => { x with reseed := true }) ∧
        s.Answered t b 22 h (okWith (a.baselines.flatMap wordOf))) ∧
    (∀ k : AxisKind, (s.cab.dock d).state ≠ .ready → ∃ t, exec (.reseedBaseline h d.num k.code) s = .next t ∧
      s.OnlyAnswers t b 22 h (refuse .dockNotReady))

/-- R170, R172, R174: ACK_RESTART from BODY clears the restart indication, its OK being the first frame without RESTARTED, and is
OK with NOTHING_TO_DO where it is clear; from another class it is refused; a request of an unknown kind is BAD_REQUEST. A
REQUEST_DISCARDED or a CANCEL_ALL that meets 8 waiting responses is discarded and counted up to 255; the first waiting response is
sent with that count, which is then 0; with no response waiting the oldest notice is built and sent on the notice identifier, and
none in SLEEP. That a full queue discards even while a reset waits is log 12. R169, R181: a request of a known kind whose profile
is above 4, or whose frame is too short for its kind, is answered BAD_ARGUMENT and changes nothing, whatever its class (log 12);
one on an identifier of no binding is ignored, and a frame on such an identifier that is none of the three intake identifiers
either makes no command (that one on the notice identifier makes none is log 74). A frame of a known kind carries tag and profile
in bytes 1 and 2 and is too short where it has not its kind's fixed fields, or cuts its entries, geometry or bindings short (kind
codes log 13, fields log 58). -/
def Obligations.ResponsesAndNoticesAreSentInTurn : Prop :=
  (∀ (h : ReqHdr) (s : State) (b : IdentBinding), s.Takes h b →
    (b.cls ≠ .body → ∃ t, exec (.ackRestart h) s = .next t ∧ s.OnlyAnswers t b 24 h (refuse .refusedAccess)) ∧
    (b.cls = .body → s.port.restarted = false → ∃ t, exec (.ackRestart h) s = .next t ∧ s.OnlyAnswers t b 24 h nothingToDo) ∧
    (b.cls = .body → s.port.restarted = true → ∃ t, exec (.ackRestart h) s = .next t ∧ t.cab = s.cab ∧
      t.port.restarted = false ∧ t.port.queue = s.port.queue ++ [⟨b.response, 24, h.tag, .ok, none, false, []⟩] ∧
      s.SameOutside { t with port := { t.port with restarted := true } }) ∧
    ∀ kind, ∃ t, exec (.badRequest h kind) s = .next t ∧ s.OnlyAnswers t b kind h (refuse .badRequest)) ∧
  (∀ (i : Instr) (h : ReqHdr) (kind : Nat) (args : List Byte) (s : State) (b : IdentBinding), headerOf? i = some h →
    requestBytes? i = some (kind, args) → (∀ n, i ≠ .badRequest h n) → s.Takes { h with short := false, profile := 0 } b →
    h.short = true ∨ 4 < h.profile → ∃ t, exec i s = .next t ∧ s.OnlyAnswers t b kind h (refuse .badArgument)) ∧
  (∀ (i : Instr) (h : ReqHdr) (s : State), headerOf? i = some h → s.cab.set.identifiers.binding? h.ident = none →
    exec i s = .next s.quietWires) ∧
  (∀ (s : State) (f : CanFrame), let r := s.cab.set.identifiers
    r.binding? f.ident = none → f.ident ≠ r.vehicle → f.ident ≠ r.intrusion → f.ident ≠ r.sleep → s.hear f = s) ∧
  (∀ (ident : Nat) (bs : List Byte), byteAt bs 0 ≤ 24 →
    let kind := byteAt bs 0
    let item := byteAt bs 3
    let fixed : Nat :=
      if kind = 19 then 1 + if item ≤ 18 then 2 else if item = 19 then 1 else if item ≤ 35 then 5 else 0
      else [1, 13, 1, 0, 17, 1, 4, 5, 2, 2, 0, 2, 1, 1, 1, 3, 20, 5, 2, 0, 1, 2, 2, 0, 0].getD kind 0
    let i := decodeRequest ident bs
    ∃ h args, headerOf? i = some h ∧ requestBytes? i = some (kind, args) ∧ (∀ n, i ≠ .badRequest h n) ∧
      h.ident = ident ∧ h.tag = byteAt bs 1 ∧ h.profile = byteAt bs 2 ∧
      (h.short = true ↔ bs.length < 3 + fixed ∨ kind = 4 ∧ readContents bs = none ∨ kind = 15 ∧ geometryContents bs = none ∨
        kind = 20 ∧ readMany readBinding (byteAt bs 3) (bs.drop 4) = none)) ∧
  (∀ (h : ReqHdr) (s : State) (b : IdentBinding), s.port.power ≠ .sleep → s.cab.set.identifiers.binding? h.ident = some b →
    8 ≤ s.port.queue.length →
    ∃ t, exec (.requestDiscarded h) s = .next t ∧ exec (.cancelAll h) s = .next t ∧ t.cab = s.cab ∧
      t.port = { s.port with lost := if s.port.lost < 255 then s.port.lost + 1 else 255, tx := [] } ∧ s.SameOutside
        { t with port := { t.port with lost := s.port.lost } }) ∧
  (∀ (s : State) (r : Response) (l : List Response), s.port.queue = r :: l →
    ∃ t, exec .responseSend s = .next t ∧ t.cab = s.cab ∧
      t.port = { s.port with queue := l, lost := 0, tx := [r.frame s.port.lost] } ∧
      s.SameOutside { t with port := { t.port with lost := s.port.lost } }) ∧
  (∀ s : State, s.port.queue = [] → exec .responseSend s = .next s.quietWires) ∧
  (∀ (s : State) (n : Notice) (l : List Notice), s.cab.notices = n :: l → s.port.power ≠ .sleep → s.port.queue = [] →
    ∃ t, exec .noticeSend s = .next t ∧ t.cab = { s.cab with notices := l } ∧
      t.port = { s.port with tx := [s.cab.noticeFrame s.port.restarted n] } ∧ s.SameOutside t) ∧
  (∀ s : State, s.port.power = .sleep ∨ s.port.queue ≠ [] → exec .noticeSend s = .next s.quietWires)

/-! ### Frames of the Vehicle Network and power states -/

/-- R171, R98, R99, R103, R104: a vehicle-state frame with every field in range is stored, restarts the freshness timer,
recomputes the effective budget, so that no more is held than that, and decides PARKED; any other is discarded. When the frames go
stale the voltage in force is 0 and PARKED is lost (the clock goes to that moment, log 2). Where the budget stands and PARKED is
lost with an order ACTIVE, the pause grace timer starts (R98). R98: the loss of PARKED takes every step of every ACTIVE order in
STARTING or RUNNING to STOPPING with cause PAUSE, then makes every ACTIVE order PAUSED with its block-wait timers stopped, then
takes the requests of the steps in POWERING back; the others stand, and the map and the grants with them. Each of these is done
for every order before the next (so the orders with a step to stop are the first whose ORDER is pending); that several orders'
ORDER subjects join in the order of the active list within each group is log 77. With no order ACTIVE nothing changes. What it
tells the blocks is taken after it (log 3). R99: at its return the grace timer is stopped and every PAUSED order is ACTIVE, its
ORDER pending; then its steps in POWERING make their requests again, those in CLAIMING an attempt each, and every dock is tested
for a step that may leave PENDING (in dock order, log 83); a waiting step's wait starts anew with its attempt
(StepsAreSequencedAndArbitrated), and a step in STOPPING goes on (StallsEndTheMotion). -/
def Obligations.VehicleStateIsTaken : Prop :=
  let E (s : State) (v : Nat) := effectiveBudget s.cab.set.budget v
  (∀ (s : State) (bs : List Byte) (g : Gear), s.cab.agenda = [] → s.cab.arb.Fits → s.port.power ≠ .sleep → 4 ≤ bs.length →
    wordAt bs 0 ≤ 3000 → Gear.ofCode? (byteAt bs 2) = some g → byteAt bs 3 ≤ 250 →
    let parked : Bool := g = .park && wordAt bs 0 < 30
    ∃ t, exec (.vehicleStateFrame bs) s = .next t ∧ t.port.speed = wordAt bs 0 ∧ t.port.gear = g ∧
      t.port.voltage = byteAt bs 3 ∧ t.port.fresh = some (s.cab.now + 500) ∧ t.port.parked = parked ∧
      t.cab.arb.budget = E s (byteAt bs 3) ∧ t.cab.arb.held ≤ E s (byteAt bs 3) ∧ t.cab.set = s.cab.set ∧ t.store = s.store ∧
      t.pad = s.pad ∧ t.intrusion = s.intrusion ∧ t.cab.now = s.cab.now ∧
      (∀ d, (t.cab.dock d).state = (s.cab.dock d).state) ∧
      (E s (byteAt bs 3) = s.cab.arb.budget → s.port.parked = true → parked = false →
        (∃ o ∈ s.cab.activeOrders, o.state = .active) → t.cab.pool.grace = some (s.cab.now + 2000)) ∧
      (E s (byteAt bs 3) = s.cab.arb.budget → s.port.parked = true → parked = false →
        let lost := s.cab.parkedLost
        let told := Cabin.drain 4094 lost.agenda { lost with agenda := [] }
        t.cab.pool = told.pool ∧ t.cab.arb = told.arb ∧ t.cab.map = told.map ∧ t.cab.notices = told.notices) ∧
      (E s (byteAt bs 3) = s.cab.arb.budget → s.port.parked = false → parked = true → t.cab.pool.grace = none ∧
        let back := s.cab.parkedBack
        let told := Cabin.drain 4094 back.agenda { back with agenda := [] }
        t.cab.pool = told.pool ∧ t.cab.arb = told.arb ∧ t.cab.map = told.map ∧ t.cab.notices = told.notices)) ∧
  (∀ (s : State) (bs : List Byte), s.port.power = .sleep ∨ bs.length < 4 ∨ 3000 < wordAt bs 0 ∨
    Gear.ofCode? (byteAt bs 2) = none ∨ 250 < byteAt bs 3 → exec (.vehicleStateFrame bs) s = .next s.quietWires) ∧
  (∀ (s : State) (k : Nat), s.cab.agenda = [] → s.cab.arb.Fits → s.port.fresh = some k →
    ∃ t, exec .vehicleStateStale s = .next t ∧ t.port.fresh = none ∧ t.port.parked = false ∧ t.cab.arb.budget = 0 ∧
      t.cab.arb.held = 0 ∧ t.cab.set = s.cab.set ∧ t.port.voltage = s.port.voltage ∧ t.cab.now = max s.cab.now k) ∧
  (∀ s : State, s.port.fresh = none → exec .vehicleStateStale s = .next s.quietWires) ∧
  (∀ c : Cabin, c.pool.Parted → c.pool.Named →
    let t := c.parkedBack
    let paused := c.activeOrders.filter fun o => o.state = .paused
    t.pool.grace = none ∧ t.map = c.map ∧ t.arb = c.arb ∧ t.docks = c.docks ∧ t.set = c.set ∧ t.now = c.now ∧
    (∀ o ∈ c.activeOrders, o.state ≠ .paused → t.pool.recs.get o.slot = some o) ∧
    (∀ o ∈ paused, t.Pends (.order o.slot) ∧ t.pool.recs.get o.slot = some { o with state := .active }) ∧
    (c.notices = [] → t.notices.map (·.subject) = paused.map fun o => .order o.slot) ∧
    ∃ requests attempts, t.agenda = c.agenda ++ requests ++ attempts ++ Dock.all.map Task.testDock ∧
      (∀ k, k ∈ requests ↔ ∃ o ∈ paused, ∃ x ∈ o.steps, x.state = .powering ∧ k = .request (o.ref x)) ∧
      ∀ k, k ∈ attempts ↔ ∃ o ∈ paused, ∃ x ∈ o.steps, x.state = .claiming ∧ k = .attempt (o.ref x)) ∧
  ∀ c : Cabin, c.pool.Parted → c.pool.Named →
    let t := c.parkedLost
    let stops (x : Step) : Bool := x.state = .starting || x.state = .running
    let active := c.activeOrders.filter fun o => o.state = .active
    (active = [] → t = c) ∧ (active ≠ [] → t.pool.grace = some (c.now + 2000)) ∧ t.map = c.map ∧ t.arb.grants = c.arb.grants ∧
    (∀ o ∈ c.activeOrders, o.state ≠ .active → t.pool.recs.get o.slot = some o) ∧
    (∀ o ∈ active, (o.steps.map (·.index)).Nodup → t.Pends (.order o.slot) ∧
      t.pool.recs.get o.slot = some { o with
        state := .paused
        steps := o.steps.map fun x =>
          if stops x then { x with state := .stopping, stopCause := some .pause, blocker := none, waitStart := none }
          else { x with waitStart := none } } ∧
      ∀ x ∈ o.steps, x.state = .powering → ∀ q, t.arb.requests.get x.dock = some q → q.step ≠ o.ref x) ∧
    (c.notices = [] → t.notices.map (·.subject) =
      (active.filter (fun o => o.steps.any stops) ++ active.filter fun o => !o.steps.any stops).map fun o => .order o.slot)

/-- R47, R48: an intrusion frame restarts the freshness timer and sets what FRONT_L and FRONT_R hold or list to their target
sets, columns 0 to ceil(i / 100) − 1 of their lanes with i held to 250; when the frames go stale both are columns 0 to 2. So it is
with orders active too: what their steps then claim, settle and hand on takes nothing from what the two together hold or list.
Where no order is active to claim the cells dropped, the map is that of the two install-and-trims and nothing more; a frame in
SLEEP is not taken (log 22). At the stale expiry the clock goes to the timer's moment (log 2). -/
def Obligations.IntrusionSetsTheFrontHolders : Prop :=
  let inTarget (l : Lane) (mm : Nat) (x : Cell) : Prop := x.lane = l ∧ x.col.val * 100 < min mm 250
  let places (t : State) (left right : Nat) : Prop :=
    ∀ x, ((t.cab.map.holderOf x = some .frontL ∨ (t.cab.map.listed.get .frontL).mem x = true) ↔ inTarget .left left x) ∧
      ((t.cab.map.holderOf x = some .frontR ∨ (t.cab.map.listed.get .frontR).mem x = true) ↔ inTarget .right right x)
  let installed (s t : State) (left right : Nat) : Prop :=
    let m := (s.cab.map.install .frontL (frontSet .left left)).trim .frontL (frontSet .left left)
    t.cab.map = (m.install .frontR (frontSet .right right)).trim .frontR (frontSet .right right)
  (∀ (s : State) (bs : List Byte), s.cab.agenda = [] → s.cab.map.Sound → s.port.power ≠ .sleep → 2 ≤ bs.length →
    ∃ t, exec (.intrusionFrame bs) s = .next t ∧ t.intrusion = some (s.cab.now + 1000) ∧ t.cab.map.Sound ∧
      t.cab.set = s.cab.set ∧ t.store = s.store ∧ t.pad = s.pad ∧ t.cab.arb.budget = s.cab.arb.budget ∧
      (∀ d, (t.cab.dock d).state = (s.cab.dock d).state) ∧ places t (byteAt bs 0) (byteAt bs 1) ∧
      (s.cab.activeOrders = [] → installed s t (byteAt bs 0) (byteAt bs 1) ∧
        t.cab.pool = s.cab.pool ∧ t.cab.arb = s.cab.arb ∧
        t.cab.map.reserved = s.cab.map.reserved ∧
        ∀ x, x.lane = .centre → s.cab.map.holderOf x ≠ some .frontL → s.cab.map.holderOf x ≠ some .frontR →
          t.cab.map.holderOf x = s.cab.map.holderOf x)) ∧
  (∀ (s : State) (bs : List Byte), s.port.power = .sleep ∨ bs.length < 2 →
    exec (.intrusionFrame bs) s = .next s.quietWires) ∧
  (∀ (s : State) (k : Nat), s.cab.agenda = [] → s.cab.map.Sound → s.intrusion = some k →
    ∃ t, exec .intrusionStale s = .next t ∧ t.intrusion = none ∧ t.cab.map.Sound ∧ t.cab.now = max s.cab.now k ∧
      places t 250 250 ∧ (s.cab.activeOrders = [] → installed s t 250 250)) ∧
  (∀ s : State, s.intrusion = none → exec .intrusionStale s = .next s.quietWires)

/-- R24, R160, R161, R175, R176: the network sleep frame takes the part to SLEEP where its condition holds, and sets the
sleep-held flag where it does not; CAN wake and the pad wake line take it back to AWAKE, with rounds every 10 ms, dock power on
and the power-up delay running for every dock in ENROLLING, READY, SILENT or FAULTED, whose exchange and unanswered count stand
until it has expired (DockTimersExpire); that of a dock with no delay is 0 at once (log 75). A channel or electrode in TUNING
begins its search anew, one in FAULT has its clean count at 0 and keeps its cause, any other stands (R160; whatever the dock's
state, log 73), and a VERDICT page still owed stays owed (log 76); the quiet timer takes it to DOZE with rounds every 100 ms. Every
request that is taken, of an unknown kind or with a bad profile or length too (log 12), brings the part from DOZE to AWAKE, with
rounds every 10 ms, but RESEED and RESEED_BASELINE, which leave the power state alone; each of them clears the sleep-held flag and
starts the quiet timer again where the quiet condition holds in AWAKE. So does a change of the switches of a READY dock bring it to
AWAKE, the first frame after enrolment among them (log 45), and a frame with the switches as they were does not (for latch events
LatchEventsMoveTheDock, for a touch start PadPollsAreTaken). The clock at the expiry is log 2, the first boundary a whole period
away log 10, the flag cleared on entry log 22. -/
def Obligations.PowerStatesChange : Prop :=
  (∀ s : State, s.port.power ≠ .sleep → s.sleepHolds = true →
    ∃ t, exec .networkSleepFrame s = .next t ∧ t.port.power = .sleep ∧ t.port.queue = [] ∧ t.port.quiet = none ∧
      t.port.sleepHeld = false ∧ t.port.tx = State.responseFrames s.port.lost s.port.queue ∧ t.link.left = [] ∧
      t.link.due = false ∧ t.link.answerBy = none ∧ t.store = s.store ∧ t.pad = s.pad ∧ t.intrusion = s.intrusion ∧
      { t.cab with docks := s.cab.docks } = s.cab ∧
      ∀ d, t.cab.dock d = { s.cab.dock d with power := false, pageLimit := none, silence := none }) ∧
  (∀ s : State, s.port.power ≠ .sleep → s.sleepHolds = false → ∃ t, exec .networkSleepFrame s = .next t ∧
    t.port = { s.port with sleepHeld := true, tx := [] } ∧ t.cab = s.cab ∧ s.SameOutside t) ∧
  (∀ s : State, s.port.power = .sleep → exec .networkSleepFrame s = .next s.quietWires) ∧
  (∀ s : State, s.port.power = .sleep → s.port.sleepHeld = false → s.cab.agenda = [] →
    ∃ t, exec .canWake s = .next t ∧ exec .padWake s = .next t ∧ t.port.power = .awake ∧ t.link.boundary = s.cab.now + 10 ∧
      let woken (x : Chan) : Chan := if x.state = .tuning then { x with comp := 512, search := 256, adjusted := 0 }
        else if x.state = .fault then { x with clean := 0 } else x
      t.pad.electrodes = s.pad.electrodes.map woken ∧ (∀ d, (t.cab.dock d).chans = (s.cab.dock d).chans.map woken) ∧
      t.pad.unanswered = 0 ∧ t.pad.present = s.pad.present ∧ t.pad.touch = s.pad.touch ∧ t.store = s.store ∧
      { t.cab with docks := s.cab.docks } = s.cab ∧
      ∀ d, let delayed : Prop := (s.cab.dock d).state = .enrolling ∨ (s.cab.dock d).state = .ready ∨
          (s.cab.dock d).state = .silent ∨ (s.cab.dock d).state = .faulted
        (t.cab.dock d).state = (s.cab.dock d).state ∧ (t.cab.dock d).axes = (s.cab.dock d).axes ∧
        (t.cab.dock d).identity = (s.cab.dock d).identity ∧ (t.cab.dock d).exchange = (s.cab.dock d).exchange ∧
        (t.cab.dock d).verdictDue = (s.cab.dock d).verdictDue ∧
        (delayed → (t.cab.dock d).power = true ∧ (t.cab.dock d).powerUp = some (s.cab.now + 50) ∧
          (t.cab.dock d).unanswered = (s.cab.dock d).unanswered) ∧
        (¬ delayed → (t.cab.dock d).unanswered = 0 ∧ (t.cab.dock d).power = (s.cab.dock d).power) ∧
        ((s.cab.dock d).state = .silent → (t.cab.dock d).silenceOwed = true)) ∧
  (∀ (s : State) (k : Nat), s.cab.agenda = [] → s.port.quiet = some k → s.port.power = .awake → s.port.sleepHeld = false →
    ∃ t, exec .quietTimerExpiry s = .next t ∧ t.port.power = .doze ∧ t.port.quiet = none ∧
      t.cab = { s.cab with now := max s.cab.now k } ∧ t.link.boundary = max s.cab.now k + 100 ∧
      s.SameOutside t) ∧
  (∀ s : State, s.port.quiet = none → exec .quietTimerExpiry s = .next s.quietWires) ∧
  (∀ (i : Instr) (h : ReqHdr) (kind : Nat) (args : List Byte) (s : State) (b : IdentBinding), headerOf? i = some h →
    requestBytes? i = some (kind, args) → s.Takes { h with short := false, profile := 0 } b →
    let stays : Prop := (∃ d ch, i = .reseed h d ch) ∨ ∃ d k, i = .reseedBaseline h d k
    ∃ t, exec i s = .next t ∧ t.port.sleepHeld = false ∧ t.cab.now = s.cab.now ∧
      t.port.quiet = (if t.port.power = .awake ∧ t.quietHolds = true then some (s.cab.now + 60000) else none) ∧
      (stays → t.port.power = s.port.power ∧ t.link.boundary = s.link.boundary) ∧
      (¬ stays → t.port.power = .awake ∧
        t.link.boundary = if s.port.power = .doze then s.cab.now + 10 else s.link.boundary)) ∧
  ∀ (s : State) (d : Dock) (bs : List Byte) (f : StatusFrame), s.polled d = true → s.inTime = true → decodeStatus d bs = some f →
    (s.cab.dock d).state = .ready → s.port.sleepHeld = false →
    ∃ t, exec (.dockPollAnswered d bs) s = .next t ∧
      ((s.cab.dock d).switches ≠ some f.switches → t.port.power = .awake ∧
        t.link.boundary = if s.port.power = .doze then s.cab.now + 10 else s.link.boundary) ∧
      ((s.cab.dock d).switches = some f.switches → t.port.power = s.port.power ∧ t.link.boundary = s.link.boundary)

/-- R173: at a stream timer's expiry POSTURE of its dock is pending, and the timer starts again for 100 ms where a step of the
dock is in motion, and stops where none is; nothing else of the cabin changes but the clock (log 2) and, where SLEEP was held back
(log 22), the docks with it. -/
def Obligations.StreamTimersMakePosturePending : Prop :=
  (∀ (s : State) (d : Dock) (k : Nat), s.cab.agenda = [] → s.cab.streams.get d = some k →
    ∃ t, exec (.streamTimerExpiry d) s = .next t ∧ t.cab.Pends (.posture d) ∧
      t.cab.streams.get d = (if s.cab.inMotion d then some (max s.cab.now k + 100) else none) ∧
      (∀ e, e ≠ d → t.cab.streams.get e = s.cab.streams.get e) ∧
      { t.cab with now := s.cab.now, streams := s.cab.streams, notices := s.cab.notices, docks := s.cab.docks } = s.cab ∧
      (s.HeldRightly → t.cab.docks = s.cab.docks)) ∧
  ∀ (s : State) (d : Dock), s.cab.streams.get d = none → exec (.streamTimerExpiry d) s = .next s.quietWires

/-! ### Latches and dock timers -/

/-- R2, R3, R4, R10, R11, R22, R175: a latch closed event takes an EMPTY dock to SEATING FRESH and a VACATING one to SEATING
RELATCH; a latch open event takes a FRESH SEATING dock to EMPTY, and a RELATCH SEATING, ENROLLING, READY, SILENT or FAULTED dock to
VACATING with power off and the hold timer running; a READY dock's steps fail with UNIT_REMOVED. Either event brings the part to
AWAKE, from DOZE too (one that ends what held SLEEP back may enter SLEEP). The map where no order is active to claim what is set
free: at SEATING the install of the envelope and the trim to it, at EMPTY the release of the dock, at a READY dock the map without
the dock's reservation record. That a READY dock keeps its cells and its overlap list, with no trim, and loses that record alone
(R46 against R10, log 17) holds with orders active too, its own step in motion among them, where no step of another dock holds a
claim that ends with its order's failure; what that entry tells is taken after it (log 3). From any other state VACATING leaves the
map as it was. LATCH_WAKE is the event its line makes; a line that closes while the other is open makes none, and leaves DOZE as it
is. LATCH_CLOSED sets both lines, and a line that does not change makes no event (log 35). -/
def Obligations.LatchEventsMoveTheDock : Prop :=
  (∀ (c : Cabin) (d : Dock), (c.dock d).state = .ready → c.pool.Named →
    (∀ o ∈ c.activeOrders, ∀ x ∈ o.steps, x.holds = true → x.dock = d) → (c.enterVacating d).map = c.map.unreserve d) ∧
  (∀ (s : State) (d : Dock), s.cab.agenda = [] → s.locked d = false →
    ∃ t, exec (.latchClosed d) s = .next t ∧ t.locked d = true ∧ (s.HeldRightly → t.port.power = .awake) ∧
      (∀ e, e ≠ d → t.latchA.get e = s.latchA.get e ∧ t.latchB.get e = s.latchB.get e) ∧ t.cab.set = s.cab.set ∧
      t.store = s.store ∧
      ((s.cab.dock d).state = .empty ∨ (s.cab.dock d).state = .vacating →
        (t.cab.dock d).state = .seating ∧
        (t.cab.dock d).origin = some (if (s.cab.dock d).state = .empty then .fresh else .relatch) ∧
        (t.cab.dock d).settle = some (s.cab.now + 200) ∧ (t.cab.dock d).hold = none ∧ (t.cab.dock d).lamp = .on ∧
        (t.cab.dock d).identity = none ∧ (t.cab.dock d).geometry = none ∧ (t.cab.dock d).axes = [] ∧
        (t.cab.dock d).chans = [] ∧ t.cab.Pends (.dock d) ∧
        (s.cab.activeOrders = [] → t.cab.map =
          (s.cab.map.install (.dock d) (s.cab.envelopes.get d)).trim (.dock d) (s.cab.envelopes.get d))) ∧
      ((s.cab.dock d).state ≠ .empty → (s.cab.dock d).state ≠ .vacating →
        (t.cab.dock d).state = (s.cab.dock d).state)) ∧
  (∀ (s : State) (d : Dock) (line : LatchLine), s.cab.agenda = [] → s.latch d line = true → s.cab.pool.Parted →
    s.cab.pool.Named →
    ∃ t, exec (.latchOpen d line) s = .next t ∧ exec (.latchWake d line false) s = .next t ∧ t.latch d line = false ∧
      (∀ l, l ≠ line → t.latch d l = s.latch d l) ∧ t.cab.set = s.cab.set ∧ t.store = s.store ∧
      (s.HeldRightly → (s.cab.dock d).state ≠ .seating ∨ s.port.sleepHeld = false → t.port.power = .awake) ∧
      ((s.cab.dock d).state = .empty ∨ (s.cab.dock d).state = .vacating →
        (t.cab.dock d).state = (s.cab.dock d).state ∧ (t.cab.dock d).hold = (s.cab.dock d).hold ∧ t.cab.map = s.cab.map) ∧
      ((s.cab.dock d).state = .seating → (s.cab.dock d).origin = some .fresh →
        (t.cab.dock d).state = .empty ∧ (t.cab.dock d).settle = none ∧ (t.cab.dock d).lamp = .off ∧ t.cab.Pends (.dock d) ∧
        (s.cab.activeOrders = [] → t.cab.map = s.cab.map.release d)) ∧
      ((s.cab.dock d).state = .seating ∧ (s.cab.dock d).origin = some .relatch ∨ (s.cab.dock d).state = .enrolling ∨
        (s.cab.dock d).state = .ready ∨ (s.cab.dock d).state = .silent ∨ (s.cab.dock d).state = .faulted →
        (t.cab.dock d).state = .vacating ∧ (t.cab.dock d).power = false ∧ (t.cab.dock d).hold = some (s.cab.now + 5000) ∧
        (t.cab.dock d).settle = none ∧ (t.cab.dock d).powerUp = none ∧ (t.cab.dock d).pageLimit = none ∧
        (t.cab.dock d).silence = none ∧ (t.cab.dock d).identity = (s.cab.dock d).identity ∧
        (t.cab.dock d).lamp = (s.cab.dock d).lamp ∧ t.cab.Pends (.dock d)) ∧
      ((s.cab.dock d).state = .seating ∧ (s.cab.dock d).origin = some .relatch ∨ (s.cab.dock d).state = .enrolling ∨
        (s.cab.dock d).state = .silent ∨ (s.cab.dock d).state = .faulted → t.cab.map = s.cab.map) ∧
      ((s.cab.dock d).state = .ready → s.cab.DockFails t.cab d .unitRemoved ∧ t.cab.Pends (.posture d) ∧
        (s.cab.activeOrders = [] → t.cab.map = s.cab.map.unreserve d) ∧
        (s.port.power ≠ .sleep → let c := (s.cab.enterVacating d).cascade; { t.cab with docks := c.docks } = c))) ∧
  (∀ (s : State) (d : Dock) (line other : LatchLine), other ≠ line → s.latch d line = false → s.latch d other = true →
    exec (.latchWake d line true) s = exec (.latchClosed d) s) ∧
  (∀ (s : State) (d : Dock) (line other : LatchLine), s.cab.agenda = [] → other ≠ line → s.latch d line = false →
    s.latch d other = false → ∃ t, exec (.latchWake d line true) s = .next t ∧ t.latch d line = true ∧
      (s.HeldRightly → t.port.power = if s.port.power = .doze then .doze else .awake) ∧
      ∀ e, (t.cab.dock e).state = (s.cab.dock e).state) ∧
  (∀ (s : State) (d : Dock) (line : LatchLine) (closed : Bool), s.latch d line = closed →
    exec (.latchWake d line closed) s = .next s.quietWires)

/-- R5, R7, R9, R11, R16, R24: a dock timer's expiry. Settle: ENROLLING, with the placement of the Dock Table copied, a new
exchange and the power-up delay. Power-up delay: it stops, the unanswered count is 0, and in ENROLLING a new exchange begins from
OPEN with toggle 0; one that expires without dock power, in SLEEP, only stops (log 75). Page limit: FAULTED with NO_RESPONSE.
Silence: the same. Hold: EMPTY, the unit, placement and exchange removed. With no order active to claim what is set free, the map
is the install of the envelope and the trim to it at settle and silence (that of the placement copy), the release of the dock at
hold, and as it was at the page limit. On a stopped timer nothing happens. The clock goes to the timer's moment (log 2). -/
def Obligations.DockTimersExpire : Prop :=
  ∀ (s : State) (d : Dock), s.cab.agenda = [] →
    (∀ k, (s.cab.dock d).settle = some k → ∃ t, exec (.settleExpiry d) s = .next t ∧ (t.cab.dock d).state = .enrolling ∧
      (t.cab.dock d).settle = none ∧ (t.cab.dock d).powerUp = some (max s.cab.now k + 50) ∧
      (t.cab.dock d).exchange = some newExchange ∧ (t.cab.dock d).lamp = .on ∧
      (t.cab.dock d).placement = some ⟨s.cab.set.dockTable.get d, s.cab.envelopes.get d⟩ ∧ t.cab.Pends (.dock d) ∧
      (s.cab.activeOrders = [] → t.cab.map =
        (s.cab.map.install (.dock d) (s.cab.envelopes.get d)).trim (.dock d) (s.cab.envelopes.get d)) ∧
      ((t.cab.dock d).power = true ∨ t.port.power = .sleep) ∧ t.cab.now = max s.cab.now k) ∧
    (∀ k, (s.cab.dock d).powerUp = some k → ∃ t, exec (.powerUpDelayExpiry d) s = .next t ∧
      (t.cab.dock d).powerUp = none ∧ (t.cab.dock d).state = (s.cab.dock d).state ∧
      (s.HeldRightly → t.cab = { s.cab with now := max s.cab.now k }.modDock d fun (r : DockRec) =>
        { r with
          powerUp := none
          unanswered := if r.power = true then 0 else r.unanswered
          exchange := if r.power = true ∧ r.state = DockState.enrolling then some newExchange else r.exchange })) ∧
    (∀ k, (s.cab.dock d).pageLimit = some k → ∃ t, exec (.pageLimitExpiry d) s = .next t ∧
      (t.cab.dock d).state = .faulted ∧ (t.cab.dock d).fault = some .noResponse ∧ (t.cab.dock d).lamp = .blinkSlow ∧
      (t.cab.dock d).identity = none ∧ t.cab.map = s.cab.map ∧ t.cab.Pends (.dock d)) ∧
    (∀ k, (s.cab.dock d).silence = some k → ∃ t, exec (.silenceExpiry d) s = .next t ∧
      (t.cab.dock d).state = .faulted ∧ (t.cab.dock d).fault = some .noResponse ∧ (t.cab.dock d).lamp = .blinkSlow ∧
      (t.cab.dock d).identity = none ∧ (t.cab.dock d).axes = [] ∧ (t.cab.dock d).silence = none ∧
      (s.cab.activeOrders = [] → ∀ p, (s.cab.dock d).placement = some p →
        t.cab.map = (s.cab.map.install (.dock d) p.envelope).trim (.dock d) p.envelope) ∧ t.cab.Pends (.dock d)) ∧
    (∀ k, (s.cab.dock d).hold = some k → ∃ t, exec (.holdExpiry d) s = .next t ∧
      (t.cab.dock d).state = .empty ∧ (t.cab.dock d).hold = none ∧ (t.cab.dock d).identity = none ∧
      (t.cab.dock d).geometry = none ∧ (t.cab.dock d).axes = [] ∧ (t.cab.dock d).exchange = none ∧
      (t.cab.dock d).placement = none ∧ (t.cab.dock d).lamp = .off ∧
      (s.cab.activeOrders = [] → t.cab.map = s.cab.map.release d) ∧ t.cab.Pends (.dock d)) ∧
    ((s.cab.dock d).settle = none → exec (.settleExpiry d) s = .next s.quietWires) ∧
    ((s.cab.dock d).powerUp = none → exec (.powerUpDelayExpiry d) s = .next s.quietWires) ∧
    ((s.cab.dock d).pageLimit = none → exec (.pageLimitExpiry d) s = .next s.quietWires) ∧
    ((s.cab.dock d).silence = none → exec (.silenceExpiry d) s = .next s.quietWires) ∧
    ((s.cab.dock d).hold = none → exec (.holdExpiry d) s = .next s.quietWires)

/-! ### The Seat Link (sections 1.3, 1.4, 9.1) -/

/-- R13, R14, R16: a period boundary. A round begins at the first slot that carries a frame, in dock order and then the pad, and
waits there: a READY dock gets its drive frame, a SILENT or FAULTED one a brake command (the first poll after a wake starts the
silence timer), an ENROLLING one the page its exchange calls for with the page limit, the pad its drive frame; the VERDICT page
that a FAULTED dock still owes takes its drive frame's place, and the round does not wait for its answer; a boundary that comes
while a round runs makes the next round due; the next boundary is a whole number of periods on and still to come. After a slot's
answer, its missing answer or the end of its page limit the round goes on so to its next slot that carries a frame; when it has
finished, a round that is due begins at once, and else none runs. The setpoint of a drive command sent is the last one sent of the
dock's move (R121; at the sending, log 11). The clock goes to the boundary (log 2); one mark stands for all
boundaries passed, and the slots are chosen at the beginning (log 10); the pad drive frame's kind is log 68. -/
def Obligations.RoundsBeginAtTheBoundary : Prop :=
  let silent (s : State) (d : Dock) : Prop := (s.cab.dock d).powerUp.isSome = true ∨ (s.cab.dock d).state = .empty ∨
    (s.cab.dock d).state = .seating ∨ (s.cab.dock d).state = .vacating
  let page (s : State) (d : Dock) (x : Exchange) (p : ControllerPage) : Prop := (s.cab.dock d).state = .enrolling ∧
    (s.cab.dock d).exchange = some x ∧ Cabin.pageDue x = some p
  let owes (s : State) (d : Dock) (x : Exchange) (why : DockFault) : Prop := (s.cab.dock d).state = .faulted ∧
    (s.cab.dock d).verdictDue = some why ∧ (s.cab.dock d).exchange = some x
  let braked (s : State) (d : Dock) : Prop := (s.cab.dock d).state = .silent ∨ (s.cab.dock d).state = .faulted ∧
    ((s.cab.dock d).verdictDue = none ∨ (s.cab.dock d).exchange = none)
  let waits (s t : State) (d : Dock) : Prop :=
    ((s.cab.dock d).state = .ready → t.link.answerBy = some (s.cab.now + 1) ∧
      t.link.tx = s.link.tx ++ [driveFrame d (s.cab.dock d).lamp (s.cab.dock d).command (s.cab.dock d).chans] ∧
      t.link.sent.get d = (s.cab.dock d).command ∧
      (t.cab.driven? d).map (·.2) = (s.cab.driven? d).map fun p => match (s.cab.dock d).command with
        | .drive _ _ v => { p.2 with lastSetpoint := v }
        | .brake => p.2) ∧
    (∀ x p, page s d x p → t.link.answerBy = none ∧ t.link.tx = s.link.tx ++ [pageFrame d p x.toggle (s.cab.dock d).lamp] ∧
      (t.cab.dock d).pageLimit = some (s.cab.now + 20)) ∧
    (braked s d → t.link.answerBy = some (s.cab.now + 1) ∧
      t.link.tx = s.link.tx ++ [driveFrame d (s.cab.dock d).lamp .brake (s.cab.dock d).chans] ∧ t.link.sent.get d = .brake ∧
      ((s.cab.dock d).state = .silent → (t.cab.dock d).silenceOwed = false ∧
        (t.cab.dock d).silence = if (s.cab.dock d).silenceOwed then some (s.cab.now + 2000) else (s.cab.dock d).silence))
  let stops (s : State) (d : Dock) : Prop := (s.cab.dock d).state = .ready ∨ braked s d ∨ ∃ x p, page s d x p
  let ends (s t : State) : Prop := t.link.answerBy = some (s.cab.now + 1) ∧ t.link.tx = s.link.tx ++ [padFrame s.pad.electrodes]
  let opens (s t : State) : Prop :=
    let first (d : Dock) : Prop := ¬ silent s d ∧ ∀ e, e.num < d.num → silent s e
    ((∀ d, silent s d) → t.link.left = [.pad] ∧ ends s t) ∧
    (∀ d, first d → stops s d → t.link.left.head? = some (.dock d) ∧ waits s t d) ∧
    ∀ d x why, first d → owes s d x why →
      (∃ later, t.link.tx = s.link.tx ++ pageFrame d (.rejected why) x.toggle (s.cab.dock d).lamp :: later) ∧
      (t.cab.dock d).verdictDue = none ∧ t.link.left.head? ≠ some (.dock d)
  let goesOn (i : Instr) (s : State) (x : LinkSlot) (l : List LinkSlot) : Prop := ∃ u : State, u.link.left = x :: l ∧
    u.link.due = s.link.due ∧ u.link.tx = [] ∧ exec i s = .next (u.advance x).finish
  (∀ s : State, s.cab.agenda = [] → s.port.power ≠ .sleep → s.HeldRightly →
    let now := max s.cab.now s.link.boundary
    ∃ t, exec .pollRound s = .next t ∧ now < t.link.boundary ∧ t.link.boundary ≤ now + s.period ∧
      (∃ n, t.link.boundary = s.link.boundary + s.period * n) ∧ t.cab.now = now ∧ t.cab.set = s.cab.set ∧
      t.cab.pool = s.cab.pool ∧ t.cab.map = s.cab.map ∧ t.store = s.store ∧ t.pad = s.pad ∧
      (s.link.left ≠ [] → t.link.left = s.link.left ∧ t.link.due = true ∧ t.link.tx = [] ∧
        t.cab = { s.cab with now := now }) ∧
      (s.link.left = [] → opens { s with cab := { s.cab with now := now }, link := { s.link with tx := [] } } t)) ∧
  (∀ (s : State) (x : LinkSlot), s.link.left.head? ≠ some x → s.advance x = s) ∧
  (∀ (s : State) (x : LinkSlot) (before after : List LinkSlot) (y : LinkSlot), s.link.left = x :: (before ++ y :: after) →
    (∀ z ∈ before, ∃ d, z = .dock d ∧ silent s d) →
    let t := s.advance x
    (y = .pad → t.link.left = y :: after ∧ t.link.due = s.link.due ∧ ends s t) ∧
    ∀ d, y = .dock d → ¬ silent s d →
      (stops s d → t.link.left = y :: after ∧ t.link.due = s.link.due ∧ waits s t d) ∧
      ∀ z why, owes s d z why → (t.cab.dock d).verdictDue = none ∧
        ∃ later, t.link.tx = s.link.tx ++ pageFrame d (.rejected why) z.toggle (s.cab.dock d).lamp :: later) ∧
  (∀ (s : State) (x : LinkSlot) (l : List LinkSlot), s.link.left = x :: l → (∀ z ∈ l, ∃ d, z = .dock d ∧ silent s d) →
    let u : State := { s with link := { s.link with left := [], answerBy := none } }
    (s.link.due = false → s.advance x = u) ∧ (s.link.due = true → (s.advance x).link.due = false ∧ opens u (s.advance x))) ∧
  (∀ (s : State) (d : Dock) (bs : List Byte) (f : StatusFrame), s.polled d = true → s.inTime = true → decodeStatus d bs = some f →
    goesOn (.dockPollAnswered d bs) s (.dock d) (if (s.cab.dock d).state = .silent then
      s.link.left.tail.filter (fun y => y != .dock d) else s.link.left.tail)) ∧
  (∀ (s : State) (d : Dock), s.polled d = true → goesOn (.dockPollUnanswered d) s (.dock d) s.link.left.tail) ∧
  (∀ (s : State) (d : Dock) (k : Nat), s.link.left.head? = some (.dock d) → (s.cab.dock d).pageLimit = some k →
    goesOn (.pageLimitExpiry d) s (.dock d) s.link.left.tail ∧
    ((s.cab.dock d).state = .enrolling → ∀ bs, goesOn (.nodePage d bs) s (.dock d) s.link.left.tail)) ∧
  (∀ (s : State) (bs : List Byte) (raws : List Nat), s.awaits .pad = true → s.inTime = true → decodePad bs = some raws →
    goesOn (.padPollAnswered bs) s .pad s.link.left.tail) ∧
  ∀ s : State, s.awaits .pad = true → goesOn .padPollUnanswered s .pad s.link.left.tail

/-- R6, R7, R9, R14, R15, R93, R114, R116, R126, R130, R131, R158, R159: an answered poll. A READY dock's unanswered count is 0,
its switches are those of the frame, each axis's node count is the one reported, and a change of switches makes POSTURE pending; a
SILENT dock enrols again; an answer that does not count as answered, one that comes after the answer limit among them, is an
unanswered poll; and where the dock's slot does not wait nothing happens (log 9). The first frame after enrolment counts as a
change of switches (log 14). Occupancy is decided by the first row of R158 that applies; a change makes POSTURE pending and is
told, and the restricted step in CLAIMING or POWERING then fails with OCCUPIED. A plain move within 2 counts of its target or past
it arrives: brake, DONE, the count kept, the axis SETTLING, the map settled, the grant to be released. A driven axis whose overrun
exceeds a sixteenth of its travel, and a run past its limit (whose notice carries the overrun as it stands, log 63), fail with
REFERENCE_FAULT. Fault flags mark the axis that the answered command drove DISABLED, and a move of it fails with DRIVE_FAULT
whatever its state; on a brake command they are not taken. R110, R125: the first count change of a step in STARTING stops its start
window and takes it to RUNNING, with its claim, unless that frame ends the move; until then the step and its window stand. R125, R144:
the run length grows by the part of a change in the move's direction, what a back-off has covered by the part against it, and nothing
is taken off either (log 56). -/
def Obligations.AnsweredPollsAreTaken : Prop :=
  let becomes (c : Cabin) (o : Order) (x : Step) (P : Step → Prop) : Prop :=
    ∃ o' y, c.pool.recs.get o.slot = some o' ∧ y ∈ o'.steps ∧ y.index = x.index ∧ P y
  let fails (c : Cabin) (o : Order) (x : Step) (why : Reason) : Prop :=
    becomes c o x (fun y => y.state = .failed ∧ y.failure = some (why, false) ∧ y.holds = false) ∧
      c.FirstFails o ⟨x.dock, x.axis, why, false⟩
  let once (o : Order) (x : Step) : Prop := ∀ y ∈ o.steps, y.index = x.index → y = x
  let drives (c : Cabin) (d : Dock) (a : Axis) (m : Move) (o : Order) (x : Step) : Prop :=
    c.pool.Named ∧ c.driven? d = some (a, m) ∧ c.axis? d a.kind = some a ∧ c.step? m.step = some (o, x) ∧ x.dock = d ∧ once o x
  (∀ (s : State) (d : Dock) (bs : List Byte) (f : StatusFrame), s.cab.agenda = [] → s.polled d = true → s.inTime = true →
    decodeStatus d bs = some f →
    ∃ t, exec (.dockPollAnswered d bs) s = .next t ∧ t.cab.set = s.cab.set ∧ t.store = s.store ∧ t.cab.now = s.cab.now ∧
      ((s.cab.dock d).state = .ready → (t.cab.dock d).state = .ready ∧ (t.cab.dock d).unanswered = 0 ∧
        (t.cab.dock d).switches = some f.switches ∧ (t.cab.dock d).identity = (s.cab.dock d).identity ∧
        (t.cab.dock d).axes.map (·.kind) = (s.cab.dock d).axes.map (·.kind) ∧
        (∀ i a, (t.cab.dock d).axes[i]? = some a → a.nodeCount = f.counts.getD i 0) ∧
        ((s.cab.dock d).switches ≠ some f.switches → t.cab.Pends (.posture d)) ∧
        (∀ e, e ≠ d → (t.cab.dock e).axes.map Axis.enrolled = (s.cab.dock e).axes.map Axis.enrolled) ∧
        let c := (s.cab.statusFrame d (s.link.sent.get d) f).cascade
        (c.agenda = [] → { t.cab with docks := c.docks } = c)) ∧
      ((s.cab.dock d).state = .silent → (t.cab.dock d).state = .enrolling ∧ (t.cab.dock d).silence = none ∧
        (t.cab.dock d).exchange = some newExchange ∧ (t.cab.dock d).identity = (s.cab.dock d).identity ∧
        (t.cab.dock d).axes.map Axis.enrolled = (s.cab.dock d).axes.map Axis.enrolled ∧ t.cab.Pends (.dock d)) ∧
      ((s.cab.dock d).state ≠ .ready → (s.cab.dock d).state ≠ .silent →
        (t.cab.dock d).state = (s.cab.dock d).state ∧ t.cab.pool = s.cab.pool ∧ t.cab.map = s.cab.map ∧
          t.cab.notices = s.cab.notices)) ∧
  (∀ (s : State) (d : Dock) (bs : List Byte), decodeStatus d bs = none ∨ (∃ k, s.link.answerBy = some k ∧ k < s.cab.now) →
    exec (.dockPollAnswered d bs) s = exec (.dockPollUnanswered d) s) ∧
  (∀ (s : State) (d : Dock) (bs : List Byte), s.port.power = .sleep ∨ s.link.left.head? ≠ some (.dock d) ∨ s.link.answerBy = none →
    s.polled d = false ∧ exec (.dockPollAnswered d bs) s = .next s.quietWires) ∧
  (∀ r : DockRec,
    let latched : Prop := ∃ w, r.switches = some w ∧ w.latched = true
    let cushion (st : ChanState) : Prop := ∃ z, r.chan? .cushion = some z ∧ z.state = st
    (r.state ≠ .ready → r.decideOccupancy = .unknown) ∧
    (r.state = .ready → latched → r.decideOccupancy = .child) ∧
    (r.state = .ready → ¬ latched → cushion .touch → r.decideOccupancy = .occupied) ∧
    (r.state = .ready → ¬ latched → r.chan? .cushion = none ∨ cushion .tuning ∨ cushion .fault → r.decideOccupancy = .unknown) ∧
    (r.state = .ready → ¬ latched → cushion .none ∨ cushion .prox → r.decideOccupancy = .none)) ∧
  (∀ (c : Cabin) (d : Dock),
    let w := (c.dock d).decideOccupancy
    let t := c.decideOccupancy d
    (w = (c.dock d).occupancy → t = c) ∧
    (w ≠ (c.dock d).occupancy → t.dock d = { c.dock d with occupancy := w } ∧ (∀ e, e ≠ d → t.dock e = c.dock e) ∧
      t.Pends (.posture d) ∧ t.agenda = c.agenda ++ [.occupancyTold d] ∧ t.pool = c.pool ∧ t.map = c.map ∧ t.arb = c.arb)) ∧
  (∀ (c : Cabin) (d : Dock) (ch : Channel) (g : Chan → Chan) (z : Chan), (c.dock d).chan? ch = some z → (g z).state ≠ z.state →
    let t := c.modChan d ch g
    ((c.dock d).state = .ready → .channelTold d ch ∈ t.agenda) ∧
    (ch = .cushion → (t.dock d).occupancy = (t.dock d).decideOccupancy)) ∧
  (∀ (c : Cabin) (d : Dock), (c.dock d).occupancy = .none → Cabin.runTask (.occupancyTold d) c = c) ∧
  (∀ (c : Cabin) (o : Order) (x : Step), c.pool.Parted → c.pool.Named → o ∈ c.activeOrders → x ∈ o.steps → once o x →
    (c.dock x.dock).occupancy ≠ .none → x.restricted (c.dock x.dock) = true → x.state = .claiming ∨ x.state = .powering →
    (∀ p ∈ c.activeOrders, ∀ y ∈ p.steps, y.dock = x.dock → y.state = .claiming ∨ y.state = .powering → p = o ∧ y = x) →
    c.inMotion x.dock = false →
    let t := Cabin.runTask (.occupancyTold x.dock) c
    fails t o x .occupied ∧ ∀ q, t.arb.requests.get x.dock = some q → q.step ≠ o.ref x) ∧
  (∀ (c : Cabin) (d : Dock) (a : Axis) (m : Move) (o : Order) (x : Step) (f : StatusFrame) (change : Int),
    drives c d a m o x →
    let t := c.movingFrame d f change
    let ended (P : Axis → Prop) : Prop := (t.dock d).command = .brake ∧ t.Pends (.posture d) ∧
      .release m.step ∈ t.agenda ∧
      ∃ b, t.axis? d a.kind = some b ∧ b.count = a.count ∧ b.cond = .settling ∧ b.move = none ∧ P b
    let settled : Prop :=
      t.map = ((c.map.unreserve d).install (.dock d) (t.dock d).footprint).trim (.dock d) (t.dock d).footprint
    let faulted (overrun : Nat) : Prop := ((∀ y ∈ o.steps, y.index ≠ x.index → y.holds = false) → settled) ∧
      fails t o x .referenceFault ∧
      ⟨.reference d (c.axisIndex d a.kind), some (.fault a.overrun)⟩ ∈ t.notices ∧
      ended fun b => b.overrun = overrun ∧ b.ref = .referenceFault ∧ b.faultTime = some c.now ∧
        b.suppression = some (c.now + 30000)
    let overran : Prop := a.ref = .referenced ∧ a.travel < a.overrun * 16 ∧ ¬ (m.kind = .homing ∧ a.count = 0)
    let plain : Prop := m.kind ≠ .homing ∧ m.target ≠ 0 ∧ m.target ≠ a.travel
    let arrived : Prop := m.dir = .increase ∧ (m.target : Int) ≤ a.tracked + 2 ∨ m.dir = .decrease ∧ a.tracked ≤ m.target + 2
    let first : Prop := x.state = .starting ∧ change ≠ 0
    let limited : Prop := (m.kind = .homing ∨ m.kind = .jog ∧ a.ref = .unreferenced) ∧ a.travel + a.travel / 4 < m.runLength
    (x.state.inMotion = true → overran → faulted 0) ∧
    (x.state = .running ∨ first → ¬ overran → plain → arrived → settled ∧ (ended fun b => b.overrun = a.overrun ∧ b.ref = a.ref) ∧
      becomes t o x fun y => y.state = .done ∧ y.holds = false) ∧
    (x.state = .running ∨ first → ¬ overran → ¬ (plain ∧ arrived) → limited → faulted a.overrun) ∧
    (first → t.arb.window.get d = none) ∧
    (first → ¬ overran → ¬ (plain ∧ arrived) → ¬ limited → becomes t o x (fun y => y.state = .running ∧ y.holds = x.holds) ∧
      t.Pends (.order o.slot) ∧ t.map = c.map ∧ (t.dock d).command = (c.dock d).command ∧
      (∀ e, t.arb.window.get e = if e = d then none else c.arb.window.get e) ∧ { t.arb with window := c.arb.window } = c.arb ∧
      t.agenda = c.agenda ++ [.judge d m.step f true false change]) ∧
    (x.state = .starting → change = 0 → ¬ overran → t.pool = c.pool ∧ t.arb = c.arb ∧ t.map = c.map ∧
      (t.dock d).command = (c.dock d).command ∧ t.agenda = c.agenda ++ [.judge d m.step f false false 0])) ∧
  (∀ (c : Cabin) (d : Dock) (a : Axis) (m : Move) (o : Order) (x : Step) (change : Int), drives c d a m o x →
    let forward : Int := if m.dir = .increase then change else -change
    let t := c.growRun d change
    let u := c.coverBack d change
    ((∃ b, t.driven? d = some (b, { m with runLength := m.runLength + forward.toNat }) ∧ b.tracked = a.tracked) ∧
      { t with docks := c.docks } = c) ∧
    (x.state ≠ .reversing → u = c) ∧
    (x.state = .reversing → { u with pool := c.pool } = c ∧ becomes u o x fun y => y = { x with
      obstruction := x.obstruction.map fun r => { r with covered := r.covered + (-forward).toNat } })) ∧
  ∀ (c : Cabin) (d : Dock) (f : StatusFrame),
    let enabled (c : Cabin) : List Bool := (c.dock d).axes.map (·.enabled)
    let counted (change : Int) : Cabin := ((c.takeCounts d f.counts).growRun d change).coverBack d change
    (∀ sent, sent = .brake ∨ f.faults = false →
      (c.driven? d = none → c.motionFrame d sent f = (counted 0).movingFrame d f 0) ∧
      ∀ a m, c.driven? d = some (a, m) →
        let change := hallChange (f.counts.getD (c.axisIndex d a.kind) 0) a.nodeCount
        c.motionFrame d sent f = (counted change).movingFrame d f change) ∧
    enabled (c.motionFrame d .brake f) = enabled c ∧
    ∀ (i : Nat) (dir : Direction) (v : Nat),
      let t := c.motionFrame d (.drive i dir v) f
      (f.faults = false → enabled t = enabled c) ∧
      ∀ a, (c.dock d).axes[i]? = some a → c.axis? d a.kind = some a → f.faults = true →
        (∃ b, t.axis? d a.kind = some b ∧ b.enabled = false) ∧ (a.enabled = true → t.Pends (.posture d)) ∧
        ∀ m o x, drives c d a m o x → a.cond = .driven → (c.dock d).axes.Pairwise (fun p q => p.kind ≠ q.kind) →
          fails t o x .driveFault ∧ (t.dock d).command = .brake ∧
          ∃ b, t.axis? d a.kind = some b ∧ b.count = (a.moveBy (hallChange (f.counts.getD i 0) a.nodeCount)).count ∧
            b.move = none ∧ b.cond = .settling

/-- R6, R7, R9, R22, R127, R135: an unanswered poll raises a READY dock's count, its axes with their moves, stall timers and watch
records as they were, and at the fifth the dock is SILENT, with its driven axis as silence axis, the full-travel sweep of that
axis installed in the map and its reservation ended (where no step of another dock holds a claim that ends with it), the silence
timer running and its steps failed with LINK_LOST; in other states it changes nothing of the dock's state. FIFTH_UNANSWERED_POLL
is that fifth poll (log 27), a poll counts while the dock's slot waits (log 9), and DOCK is pending at SILENT (log 15). -/
def Obligations.UnansweredPollsAreCounted : Prop :=
  let sweeps (c : Cabin) (d : Dock) : CellMap := (match c.driven? d with
    | some (a, _) => c.map.install (.dock d) ((c.dock d).fullSweep a.kind)
    | none => c.map).unreserve d
  (∀ (c : Cabin) (d : Dock), c.pool.Named → (∀ o ∈ c.activeOrders, ∀ x ∈ o.steps, x.holds = true → x.dock = d) →
    (c.enterSilent d).map = sweeps c d) ∧
  (∀ (s : State) (d : Dock), s.cab.agenda = [] → s.polled d = true → s.cab.pool.Parted → s.cab.pool.Named →
    ∃ t, exec (.dockPollUnanswered d) s = .next t ∧ t.cab.set = s.cab.set ∧ t.store = s.store ∧ t.cab.now = s.cab.now ∧
      ((s.cab.dock d).state = .ready → (s.cab.dock d).unanswered < 4 →
        (t.cab.dock d).state = .ready ∧ (t.cab.dock d).unanswered = (s.cab.dock d).unanswered + 1 ∧
        (t.cab.dock d).axes = (s.cab.dock d).axes ∧ (t.cab.dock d).command = (s.cab.dock d).command ∧
        t.cab.pool = s.cab.pool ∧ t.cab.map = s.cab.map ∧ t.cab.arb = s.cab.arb) ∧
      ((s.cab.dock d).state = .ready → 4 ≤ (s.cab.dock d).unanswered →
        exec (.fifthUnansweredPoll d) s = .next t ∧ (t.cab.dock d).state = .silent ∧
        (t.cab.dock d).silenceAxis = (s.cab.driven? d).map (fun p => p.1.kind) ∧
        ((t.cab.dock d).silence = some (s.cab.now + 2000) ∨ t.port.power = .sleep) ∧
        (t.cab.dock d).identity = (s.cab.dock d).identity ∧
        s.cab.DockFails t.cab d .linkLost ∧ t.cab.Pends (.posture d) ∧ t.cab.Pends (.dock d) ∧
        (s.cab.activeOrders = [] → t.cab.map = sweeps s.cab d)) ∧
      ((s.cab.dock d).state ≠ .ready → (t.cab.dock d).state = (s.cab.dock d).state ∧
        (t.cab.dock d).unanswered = (s.cab.dock d).unanswered ∧ t.cab.pool = s.cab.pool ∧ t.cab.map = s.cab.map)) ∧
  (∀ (s : State) (d : Dock), s.polled d = false → exec (.dockPollUnanswered d) s = .next s.quietWires) ∧
  ∀ (s : State) (d : Dock), s.polled d = false ∨ (s.cab.dock d).state ≠ .ready ∨ (s.cab.dock d).unanswered < 4 →
    exec (.fifthUnansweredPoll d) s = .next s.quietWires

/-- R16, R17, R18, R19, R20, R8: a node page within its limit. The page the exchange expects is stored and flips the toggle: BASE,
an AXIS page before the last, the last one with its verdict; the ACKNOWLEDGE installs unit identity, geometry and axes and makes
the dock READY; a page that fails a check, and a rejected verdict, make it FAULTED with the reason, its cells as they were; one
that comes after the limit is the expiry of the limit, and one with no limit running is discarded. The verdict is decided by the
tests of R18 in their order: allowed kind, an entry of the key, the declared axes, the ranges of every AXIS page. With no order
active, READY leaves in the map the install of the footprint and the trim to it. R8, R19: the accepted unit's channels are those of its
set (LID of a THIRD alone), each in TUNING from a compensation of 512 (TuningTakesElevenFrames), and every live record is validated
again, the match with it, each change told. What the acceptance tells the blocks is taken after it (log 3). -/
def Obligations.NodePagesDriveTheExchange : Prop :=
  (∀ (s : State) (d : Dock) (bs : List Byte) (x : Exchange), s.cab.agenda = [] → (s.cab.dock d).state = .enrolling →
    (∃ k, (s.cab.dock d).pageLimit = some k ∧ s.cab.now ≤ k) → (s.cab.dock d).exchange = some x →
    let fails (why : DockFault) : Prop := ∃ t, exec (.nodePage d bs) s = .next t ∧ (t.cab.dock d).state = .faulted ∧
      (t.cab.dock d).fault = some why ∧ (t.cab.dock d).lamp = .blinkSlow ∧ (t.cab.dock d).identity = none ∧ t.cab.map = s.cab.map ∧
      t.cab.Pends (.dock d)
    let stores (y : Exchange) : Prop := ∃ t, exec (.nodePage d bs) s = .next t ∧ (t.cab.dock d).state = .enrolling ∧
      (t.cab.dock d).exchange = some y ∧ (t.cab.dock d).identity = (s.cab.dock d).identity ∧ t.cab.set = s.cab.set ∧
      t.cab.pool = s.cab.pool ∧ t.cab.map = s.cab.map
    let expected (p : NodePage) : Prop := decodePage d bs = some p ∧ p.toggle = x.toggle ∧ p.ack = true
    (decodePage d bs = none → fails .pageSequence) ∧
    (∀ p, decodePage d bs = some p → p.toggle ≠ x.toggle ∨ p.ack = false → fails .pageSequence) ∧
    (∀ p i, expected p → p.body = .base i → x.wanted = .base →
      (1 ≤ i.axisCount → i.axisCount ≤ 4 → p.more = true →
        stores { x with base := some i, wanted := .axis, toggle := !x.toggle }) ∧
      (1 ≤ i.axisCount → i.axisCount ≤ 4 → p.more = false → fails .pageSequence) ∧
      (i.axisCount < 1 ∨ 4 < i.axisCount → fails .axisMismatch)) ∧
    (∀ p a i, expected p → p.body = .axis a → x.wanted = .axis → x.base = some i →
      (x.pages.length + 1 < i.axisCount → p.more = true → stores { x with pages := x.pages ++ [a], toggle := !x.toggle }) ∧
      (p.more ≠ decide (x.pages.length + 1 < i.axisCount) → fails .pageSequence) ∧
      (¬ x.pages.length + 1 < i.axisCount → p.more = false → ∀ pl, (s.cab.dock d).placement = some pl →
        (∀ e, verdict s.cab.set.geometry pl.place i (x.pages ++ [a]) = .ok e →
          stores { x with pages := x.pages ++ [a], toggle := !x.toggle, wanted := .acknowledge, entry := some e }) ∧
        ∀ why, verdict s.cab.set.geometry pl.place i (x.pages ++ [a]) = .error why → fails why)) ∧
    (∀ p i e, expected p → p.body = .acknowledge → x.wanted = .acknowledge → x.base = some i → x.entry = some e →
      p.more = false → ∃ t, exec (.nodePage d bs) s = .next t ∧ (t.cab.dock d).state = .ready ∧
        (t.cab.dock d).identity = some { i with channels := i.channels.filter fun c => c != .lid || i.kind = .third } ∧
        (t.cab.dock d).geometry = some e ∧ (t.cab.dock d).unanswered = 0 ∧
        (s.cab.activeOrders = [] → t.cab.map = (s.cab.map.install (.dock d) (t.cab.dock d).footprint).trim (.dock d)
          (t.cab.dock d).footprint) ∧
        (t.cab.dock d).axes.map Axis.enrolled = (x.pages.map (newAxis e i.trust)).map Axis.enrolled ∧
        t.cab.Pends (.dock d) ∧ t.cab.Pends (.posture d) ∧
        let made := s.cab.accepted d i x.pages e
        (made.cascade.agenda = [] → { t.cab with docks := made.cascade.docks } = made.cascade) ∧
        (s.cab.activeOrders = [] → t.cab.layouts = made.layouts ∧ (t.cab.dock d).chans = (made.dock d).chans)) ∧
    (∀ p, expected p → p.body = .acknowledge → x.wanted = .acknowledge → p.more = true → fails .pageSequence) ∧
    (∀ p, expected p → (x.wanted = .base ∧ ∀ i, p.body ≠ .base i) ∨ (x.wanted = .axis ∧ ∀ a, p.body ≠ .axis a) ∨
      (x.wanted = .acknowledge ∧ p.body ≠ .acknowledge) → fails .pageSequence)) ∧
  (∀ (c : Cabin) (d : Dock) (i : Identity) (pages : List AxisPage) (e : GeomEntry), c.layouts.Sound →
    let t := c.accepted d i pages e
    let fitted := i.channels.filter fun ch => ch != .lid || i.kind = .third
    (t.dock d).chans.map (·.kind) = fitted.map (·.kind) ∧
    (∀ x ∈ (t.dock d).chans, x.state = .tuning ∧ x.comp = 512 ∧ x.search = 256 ∧ x.adjusted = 0 ∧ x.clean = 0 ∧ x.fault = none ∧
      x.suppression = none ∧ x.retune = false ∧ x.filtered = none ∧ x.ref16 = none) ∧
    t.layouts.live = (c.layouts.live.map fun l => { l with validation := validate t.docks l.entries }) ∧
    (∀ l ∈ c.layouts.live, validate t.docks l.entries ≠ l.validation → t.Pends (.layout l.number)) ∧
    t.layouts.match_ = t.layouts.computeMatch t.docks ∧
    (t.layouts.match_ ≠ c.layouts.match_ → ∀ f, (t.dock f).state = .ready → t.Pends (.posture f))) ∧
  (∀ (s : State) (d : Dock) (bs : List Byte) (k : Nat), (s.cab.dock d).state = .enrolling →
    (s.cab.dock d).pageLimit = some k → k < s.cab.now → exec (.nodePage d bs) s = exec (.pageLimitExpiry d) s) ∧
  (∀ (table : List GeomEntry) (pl : Placement) (i : Identity) (pages : List AxisPage),
    let v := verdict table pl i pages
    let keyed (e : GeomEntry) : Prop := e.kind = i.kind ∧ e.revision = i.revision
    let named : Prop := 1 ≤ i.axisCount ∧ i.axisCount ≤ 4 ∧ pages.length = i.axisCount ∧
      pages.map (·.kind) = i.kind.axes.take i.axisCount
    let ranged (e : GeomEntry) (p : AxisPage) : Prop := (16 ≤ p.travel ∧ p.travel ≤ 60000) ∧
      (p.kind = .slide → 10 ≤ p.pitch ∧ p.pitch ≤ 200) ∧ (5 ≤ p.rated ∧ p.rated ≤ 150) ∧ (20 ≤ p.maxSpeed ∧ p.maxSpeed ≤ 2000) ∧
      p.nominal < p.stallThreshold ∧ (p.kind ≠ .slide → ∀ (j : Nat) (x y : Station), (e.table p.kind)[j]? = some x →
        (e.table p.kind)[j + 1]? = some y → 1000 ≤ (y.boundary - x.boundary) * p.travel)
    (i.kind ≠ pl.kind → v = .error .kindNotAllowed) ∧
    (i.kind = pl.kind → (∀ e ∈ table, ¬ keyed e) → v = .error .unknownGeometry) ∧
    ∀ before e after, i.kind = pl.kind → table = before ++ e :: after → (∀ x ∈ before, ¬ keyed x) → keyed e →
      (¬ named → v = .error .axisMismatch) ∧
      (named → (∃ p ∈ pages, ¬ ranged e p) → v = .error .axisMismatch) ∧
      (named → (∀ p ∈ pages, ranged e p) → v = .ok e)) ∧
  ∀ (s : State) (d : Dock) (bs : List Byte), (s.cab.dock d).state ≠ .enrolling ∨ (s.cab.dock d).pageLimit = none →
    exec (.nodePage d bs) s = .next s.quietWires

/-- R161, R162, R163, R164, R165: the pad's answers. An answered poll of an ABSENT pad makes it PRESENT with its electrodes in
TUNING; one of a PRESENT pad sets the count to 0 and gives each electrode its raw count, which it takes as a channel does (R162),
one with re-tune due beginning tuning where the frame is a release (R164). A frame with an electrode in TOUCH on an untouched
strip is a touch start: TOUCHING, with this moment and the position there, and the part AWAKE from DOZE (R163, R175); one on a
touched strip is a touched frame, and one with none a release: what these do to touch, orders, jog and STRIP notices is what
StripPositionWeighsTheElectrodes says of touchFrame and releaseTouch (R164 to R168), and what they tell is taken after it (log 3).
An unanswered poll of a PRESENT pad raises the count, and at the fifth the pad is ABSENT and a touch ends, in HELD with the jog it
began (R165); one of an ABSENT pad changes nothing of the pad. STRIP is pending on both changes. Else the orders, the map and the
notices are as they were. An answer that does not count as answered, one after the answer limit among them, is an unanswered poll,
and PAD_ABSENT is the fifth (log 27); where the pad's slot does not wait, in SLEEP among others, nothing happens (log 9). An
electrode in FAULT tunes too when the pad appears (log 64), and one with re-tune due where the loss of the pad ends a touch (log
66). -/
def Obligations.PadPollsAreTaken : Prop :=
  let tells (t : State) (c : Cabin) : Prop := c.cascade.agenda = [] → { t.cab with docks := c.cascade.docks } = c.cascade
  let gone (s : State) : Cabin := s.cab.notify .strip (some .padAbsent)
  (∀ (s : State) (bs : List Byte) (raws : List Nat), s.awaits .pad = true → s.inTime = true → s.cab.agenda = [] → decodePad bs = some raws →
    ∃ t, exec (.padPollAnswered bs) s = .next t ∧ t.pad.present = true ∧ t.pad.unanswered = 0 ∧ t.store = s.store ∧
      t.cab.set = s.cab.set ∧ t.cab.now = s.cab.now ∧
      (s.pad.present = false → t.cab.Pends .strip ∧ t.pad.touch = s.pad.touch ∧
        { t.cab with docks := s.cab.docks } = s.cab.notify .strip (some .padPresent) ∧
        t.pad.electrodes = if s.pad.electrodes = [] then List.replicate 4 (newChan .strip)
          else s.pad.electrodes.map Chan.beginTuning) ∧
      (s.pad.present = true → t.pad.electrodes.length = s.pad.electrodes.length ∧
        (∀ i x, t.pad.electrodes[i]? = some x → x.raw = some (raws.getD i 0)) ∧
        let touched := s.pad.touch.isSome
        let taken (i : Nat) (y : Chan) : Chan := y.take s.cab.set.limits s.cab.now touched touched (raws.getD i 0)
        let released : Prop := touched = true ∧ ∀ i y, s.pad.electrodes[i]? = some y → (taken i y).state ≠ .touch
        ∀ i y, s.pad.electrodes[i]? = some y →
          (released → (taken i y).retune = true → t.pad.electrodes[i]? = some (taken i y).beginTuning) ∧
          (¬ released ∨ (taken i y).retune = false → t.pad.electrodes[i]? = some (taken i y))) ∧
      (s.pad.present = true →
        let inTouch : Prop := ∃ y ∈ t.pad.electrodes, y.state = .touch
        (s.pad.touch = none → { t.cab with docks := s.cab.docks } = s.cab ∧ (¬ inTouch → t.pad.touch = none)) ∧
        (s.pad.touch = none → inTouch → t.port.power = .awake ∧
          (s.port.power = .doze → t.link.boundary = s.cab.now + 10) ∧
          ∃ p, t.pad.touch = some p ∧ p.phase = .touching ∧ p.startTime = s.cab.now ∧ p.elapsed = 0 ∧ p.excursion = 0 ∧
            p.startPos = stripPosition s.cab.set.limits.strip.touch 0 t.pad.electrodes ∧ p.position = p.startPos) ∧
        ∀ p, s.pad.touch = some p →
          (inTouch → t.pad.touch = ((s.takeElectrodes raws).touchFrame p).pad.touch ∧
            tells t ((s.takeElectrodes raws).touchFrame p).cab) ∧
          (¬ inTouch → t.pad.touch = none ∧ tells t ((s.takeElectrodes raws).releaseTouch p).cab))) ∧
  (∀ (s : State), s.awaits .pad = true → s.cab.agenda = [] →
    ∃ t, exec .padPollUnanswered s = .next t ∧ t.store = s.store ∧ t.cab.set = s.cab.set ∧
      (s.pad.present = false → t.pad = s.pad) ∧
      (s.pad.present = true → s.pad.unanswered < 4 → t.pad = { s.pad with unanswered := s.pad.unanswered + 1 }) ∧
      (s.pad.present = true → 4 ≤ s.pad.unanswered → exec .padAbsent s = .next t ∧ t.pad.present = false ∧
        t.pad.unanswered = 5 ∧ t.pad.touch = none ∧ t.cab.Pends .strip ∧
        (∀ p, s.pad.touch = some p → p.phase = .held → t.cab.jog = none ∧ tells t (gone s).endJog) ∧
        ((∀ p, s.pad.touch = some p → p.phase ≠ .held) → { t.cab with docks := s.cab.docks } = gone s) ∧
        t.pad.electrodes = if s.pad.touch = none then s.pad.electrodes
          else s.pad.electrodes.map fun x => if x.retune then x.beginTuning else x)) ∧
  (∀ (s : State) (bs : List Byte), decodePad bs = none ∨ (∃ k, s.link.answerBy = some k ∧ k < s.cab.now) →
    exec (.padPollAnswered bs) s = exec .padPollUnanswered s) ∧
  (∀ s : State, s.pad.present = false ∨ s.pad.unanswered < 4 → exec .padAbsent s = .next s.quietWires) ∧
  ∀ (s : State) (bs : List Byte), s.port.power = .sleep ∨ s.link.left.head? ≠ some .pad ∨ s.link.answerBy = none →
    s.awaits .pad = false ∧ exec (.padPollAnswered bs) s = .next s.quietWires ∧ exec .padPollUnanswered s = .next s.quietWires

/-! ### Timers of orders, axes, channels and the strip -/

/-- R92, R95, R96, R99, R110, R112: what the limits of an order's running do to it, and how orders fail and end. A block-wait
that expires fails its order with the noted blocker, a start window with NO_MOTION, a grant wait with NO_POWER; the pause grace
timer fails every PAUSED order, of which no cancel has been taken, with VEHICLE_MOVING, naming its first step that is not in
motion, or else its first that is. R95: the failing step is FAILED with its reason; the first failure is written where there is
none and no cancel has been taken; every other step in PENDING, CLAIMING or POWERING is SKIPPED, and the others stand. The claims of
the steps that end let go of their cells (R43, R44), the failing step's first, then in step order (log 23, 83), their requests are
taken back, and every other order stands. A step of a dock that leaves READY keeps its cells (markFailed, R22). R96: where a
failure, a cancel, a supersede, the end of a jog, a start check, the end of a move or of a ramp-down leaves an order no
non-terminal step it ends in that event, else it stays on the active list: FAILED with a first failure, CANCELLED with a cancel
taken, SUPERSEDED with every dock superseded, else DONE; ORDER is pending, the slot goes to the tail of the free list, the
attention WAIT of that order becomes NONE with its lamp OFF, and a jog record of it is removed. R99: an order that had failed
before the grace expiry has its waiting steps SKIPPED. What these tell is taken after them (log 3). On a stopped timer, and for a
step that is not there, nothing happens. The clock goes to the timer's moment (log 2). -/
def Obligations.OrderTimersFailTheirOrders : Prop :=
  let told (s t : State) (c : Cabin) : Prop := { t.cab with docks := c.cascade.docks } = c.cascade ∧
    (s.port.sleepHeld = false → t.cab = c.cascade)
  let late (s : State) (v : Nat) : Cabin := { s.cab with now := max s.cab.now v }
  let final (o : Order) : OrderState :=
    if o.firstFailure ≠ none then .failed
    else if o.cancelTaken = true then .cancelled
    else if ∀ y ∈ o.steps, y.dock ∈ o.superseded then .superseded
    else .done
  let ends (t : Cabin) (slot : Slot) : Prop := ∃ o, t.pool.recs.get slot = some o ∧
    (slot ∈ t.pool.active → ∃ y ∈ o.steps, y.state.terminal = false) ∧
    (slot ∉ t.pool.active → (∀ y ∈ o.steps, y.state.terminal = true) ∧ o.state = final o ∧ slot ∈ t.pool.free ∧
      t.Pends (.order slot))
  let waits (y : Step) : Bool := [StepState.pending, .claiming, .powering].contains y.state
  let left (st : StepState) (y : Step) : Step :=
    { y with state := st, blocker := none, waitStart := none, stopCause := none, holds := false }
  let letGo (c : Cabin) (m : CellMap) (y : Step) : CellMap :=
    let F := (c.dock y.dock).footprint
    ((m.unreserve y.dock).install (.dock y.dock) F).trim (.dock y.dock) F
  let failed (c t : Cabin) (o : Order) (x : Step) (why : Reason) (ri : Bool) (own : List Step) : Prop :=
    let skips (y : Step) : Bool := y.index ≠ x.index && waits y
    (∃ o', t.pool.recs.get o.slot = some o' ∧ { o' with steps := o.steps, state := o.state, firstFailure := o.firstFailure } = o ∧
      (o.slot ∈ t.pool.active → o'.state = o.state) ∧
      o'.firstFailure = (if o.firstFailure = none ∧ o.cancelTaken = false then some ⟨x.dock, x.axis, why, ri⟩ else o.firstFailure) ∧
      o'.steps = o.steps.map fun y =>
        if y.index = x.index then { left .failed y with failure := some (why, ri) } else if skips y then left .skipped y else y) ∧
    ends t o.slot ∧ (∀ slot, slot ≠ o.slot → t.pool.recs.get slot = c.pool.recs.get slot) ∧
    t.map = (own ++ o.steps.filter fun y => skips y && y.holds).foldl (letGo c) c.map ∧
    (∀ y ∈ o.steps, skips y = true → ∀ q, t.arb.requests.get y.dock = some q → q.step ≠ o.ref y) ∧
    (∀ e q, c.arb.requests.get e = some q → q.step.order ≠ o.number → t.arb.requests.get e = some q) ∧ t.arb.grants = c.arb.grants
  (∀ (c : Cabin) (o : Order) (x : Step) (why : Reason) (ri : Bool), c.pool.Named → o ∈ c.activeOrders → x ∈ o.steps →
    (o.steps.map (·.index)).Nodup →
    failed c (c.markFailed o x why ri) o x why ri [] ∧
    failed c (c.failWaiting o x why) o x why false (if x.holds then [x] else []) ∧
    (∀ q, (c.failWaiting o x why).arb.requests.get x.dock = some q → q.step ≠ o.ref x) ∧
    ∀ a m, c.driven? x.dock = some (a, m) → c.step? m.step = some (o, x) → failed c (c.failMove x.dock why ri) o x why ri [x]) ∧
  (∀ (c : Cabin) (slot : Slot) (o : Order), c.pool.recs.get slot = some o → slot ∈ c.pool.active →
    let t := c.closeOrder slot
    ((∃ y ∈ o.steps, y.state.terminal = false) → t = c) ∧
    ((∀ y ∈ o.steps, y.state.terminal = true) →
      t.pool = { c.pool with
        recs := c.pool.recs.set slot (some { o with state := final o })
        active := c.pool.active.filter fun r => r ≠ slot
        free := c.pool.free ++ [slot] } ∧
      t.Pends (.order slot) ∧ t.map = c.map ∧ t.arb = c.arb ∧ t.agenda = c.agenda ∧
      (∀ j, c.jog = some j → t.jog = if j.order = o.number then none else some j) ∧
      ∀ d, ((c.dock d).state = .ready → (c.dock d).attention = .wait o.number →
          t.dock d = { c.dock d with attention := .none, lamp := .off }) ∧
        ((c.dock d).attention ≠ .wait o.number → t.dock d = c.dock d))) ∧
  (∀ (c : Cabin) (o : Order) (x : Step), c.pool.Named → o ∈ c.activeOrders → x ∈ o.steps →
    ends (c.cancelOrder o.slot) o.slot ∧ (x.state.terminal = false → ends (c.supersedeOn x.dock o.slot) o.slot) ∧
    (∀ a, c.axis? x.dock x.axis = some a → ends (c.startChecks o x) o.slot) ∧
    (∀ j, c.jog = some j → c.orderOf? j.order = some o → ends c.endJog o.slot) ∧
    ∀ d a m, c.driven? d = some (a, m) → c.step? m.step = some (o, x) →
      ends (c.finishMove d) o.slot ∧ (x.state = .stopping → ends (c.endStopping d) o.slot)) ∧
  (∀ (c : Cabin) (o : Order), c.pool.Named → o ∈ c.activeOrders → (o.steps.map (·.index)).Nodup →
    (∀ x, o.firstFailure = none → o.steps.find? waits = some x → c.graceOrder o = c.failWaiting o x .vehicleMoving) ∧
    (o.firstFailure ≠ none → ends (c.graceOrder o) o.slot ∧ ∃ o', (c.graceOrder o).pool.recs.get o.slot = some o' ∧
      o'.steps = o.steps.map fun y => if waits y then left .skipped y else y)) ∧
  ∀ s : State, s.cab.agenda = [] → s.cab.pool.Parted → s.cab.pool.Named → s.cab.pool.Numbered →
    (∀ o ∈ s.cab.activeOrders, ∀ x ∈ o.steps, (∀ y ∈ o.steps, y.index = x.index → y = x) → x.state = .claiming →
      ∀ k, x.waitStart = some k →
      ∃ t, exec (.blockWaitExpiry o.slot x.index) s = .next t ∧ t.cab.set = s.cab.set ∧
        t.cab.now = max s.cab.now (k + s.cab.set.limits.blockWait * 1000) ∧
        let fails (why : Reason) : Prop := t.cab.FirstFails o ⟨x.dock, x.axis, why, false⟩ ∧
          told s t ((late s (k + s.cab.set.limits.blockWait * 1000)).failWaiting o x why)
        (∀ e, x.blocker = some (.dock e) → fails .blockedDock) ∧
        (∀ g, x.blocker = some (.external g) → fails .blockedExternal) ∧
        (∀ c, x.blocker = some (.object c) → fails .blockedObject)) ∧
    (∀ k, s.cab.pool.grace = some k →
      ∃ t, exec .pauseGraceExpiry s = .next t ∧ t.cab.pool.grace = none ∧ t.cab.now = max s.cab.now k ∧ t.cab.set = s.cab.set ∧
        told s t ((s.cab.activeOrders.filter fun o => o.state = .paused && !o.cancelTaken).foldl Cabin.graceOrder
          { late s k with pool := { s.cab.pool with grace := none } }) ∧
        ∀ o ∈ s.cab.activeOrders, o.state = .paused → ∀ x,
          (o.steps.find? fun y => y.state.waiting) = some x ∨
            ((∀ y ∈ o.steps, y.state.waiting = false) ∧ (o.steps.find? fun y => !y.state.terminal) = some x) →
          t.cab.FirstFails o ⟨x.dock, x.axis, .vehicleMoving, false⟩) ∧
    (∀ d k o x a m, s.cab.arb.window.get d = some k → s.cab.movingStep? d = some (o, x) → x.state = .starting →
      s.cab.driven? d = some (a, m) → s.cab.step? m.step = some (o, x) →
      ∃ t, exec (.startWindowExpiry d) s = .next t ∧ t.cab.FirstFails o ⟨x.dock, x.axis, .noMotion, false⟩ ∧
        t.cab.Pends (.posture d) ∧ t.cab.now = max s.cab.now k ∧ t.cab.set = s.cab.set ∧
        told s t ((late s k).failMove d .noMotion)) ∧
    (∀ d q o x, s.cab.arb.requests.get d = some q → s.cab.step? q.step = some (o, x) → x.state = .powering →
      ∃ t, exec (.grantWaitExpiry d) s = .next t ∧ t.cab.FirstFails o ⟨x.dock, x.axis, .noPower, false⟩ ∧
        t.cab.now = max s.cab.now q.wait ∧ t.cab.set = s.cab.set ∧ told s t ((late s q.wait).failWaiting o x .noPower)) ∧
    (∀ slot n, (∀ o ∈ s.cab.activeOrders, o.slot = slot → ∀ x ∈ o.steps, x.index = n → x.waitStart = none) →
      exec (.blockWaitExpiry slot n) s = .next s.quietWires) ∧
    (s.cab.pool.grace = none → exec .pauseGraceExpiry s = .next s.quietWires) ∧
    (∀ d, s.cab.arb.window.get d = none → exec (.startWindowExpiry d) s = .next s.quietWires) ∧
    (∀ d, s.cab.arb.requests.get d = none → exec (.grantWaitExpiry d) s = .next s.quietWires)

/-- R118, R125, R127, R128, R130, R135 to R145: a stall timer's expiry, the end stop, obstructions, the back-off, learning and
what presence stops. On a stopped timer nothing happens; the clock goes to the timer's moment (log 2), what is told in the event
is taken after it (log 3). A stall ends a homing run at count 0, REFERENCED; in the creep of an extreme move it is the end stop,
by the bands of the error; elsewhere in RUNNING it is an obstruction, in REVERSING a second one. A judged frame raises or clears
the counts of the two criteria, the third in a row is an obstruction with its cause; one that is not judged leaves them, or clears
them in the creep. The stall timer, of 150 ms, starts or goes on at a frame of a current above the stall threshold and no change,
and stops at any other (in STARTING on a HOMING move or in the creep of an extreme one). A frame is the previous one of the next,
with its moment and setpoint. In STOPPING the ramp-down ends at its stop length, at arrival and at an end stop's stall with the
count kept; an obstruction brakes, is recorded without a back-off, and the step goes on by its stop cause (one stopped by PAUSE
whose dock a newer order has superseded ends SKIPPED, log 49). The watch record takes a frame's current and occupancy before what
that frame tells is taken. The back-off runs at the creep speed of its obstruction; the first answer after it is its braked first
frame, one to the drive frame before among them (log 87). It ends at its reverse end (2 counts short of it from the second frame
on, log 54, also where that frame would be a second obstruction, log 65) or at a second obstruction. A fold step whose fold-path
channel is in TOUCH, told of it or at its grant, fails in STARTING, is obstructed in RUNNING and STOPPING, and stands in
REVERSING; a restricted step of a dock told to be occupied or unknown fails with OCCUPIED, in REVERSING with OBSTRUCTED. A move
that ends DONE teaches its baselines. -/
def Obligations.StallsEndTheMotion : Prop :=
  let becomes (c : Cabin) (o : Order) (x : Step) (P : Step → Prop) : Prop :=
    ∃ o' y, c.pool.recs.get o.slot = some o' ∧ y ∈ o'.steps ∧ y.index = x.index ∧ P y
  let stops (t : Cabin) (d : Dock) (a : Axis) (o : Order) (x : Step) (P : Step → Prop) : Prop :=
    let ends (Q : Step → Prop) : Prop := becomes t o x fun y => Q y ∧ P y
    let again : Prop := o.firstFailure = none ∧ o.cancelTaken = false ∧ d ∉ o.superseded
    (t.dock d).command = .brake ∧
    (∃ b, t.axis? d a.kind = some b ∧ b.count = a.count ∧ b.overrun = a.overrun ∧ b.ref = a.ref ∧ b.move = none) ∧
    (x.stopCause = some .cancel ∨ x.stopCause = some .supersede → ends fun y => y.state = .skipped ∧ y.holds = false) ∧
    (x.stopCause = some .release → ends fun y => y.state = .done ∧ y.holds = false) ∧
    (x.stopCause = some .pause → again → ends fun y => y.state = .claiming ∧ y.holds = x.holds) ∧
    (x.stopCause = some .pause → ¬ again → ends fun y => y.state = .skipped ∧ y.holds = false)
  let recorded (a : Axis) (cause : ObstCause) (filtered : Option Int) (y : Step) : Prop :=
    ∃ r, y.obstruction = some r ∧ r.cause = cause ∧ r.position = a.count ∧ r.backOff = 0 ∧ r.covered = 0 ∧
      r.filtered = filtered.map Int.toNat
  let fails (c : Cabin) (o : Order) (x : Step) (why : Reason) (incomplete : Bool) : Prop :=
    (c.dock x.dock).command = .brake ∧ becomes c o x (fun y => y.state = .failed ∧ y.failure = some (why, incomplete)) ∧
      c.FirstFails o ⟨x.dock, x.axis, why, incomplete⟩
  let drives (c : Cabin) (d : Dock) (a : Axis) (m : Move) (o : Order) (x : Step) : Prop :=
    c.pool.Named ∧ c.driven? d = some (a, m) ∧ c.axis? d a.kind = some a ∧ c.step? m.step = some (o, x) ∧ x.dock = d ∧
      ∀ y ∈ o.steps, y.index = x.index → y = x
  let obstructed (c t : Cabin) (d : Dock) (a : Axis) (m : Move) (o : Order) (x : Step) (cause : ObstCause)
      (filtered : Option Int) : Prop :=
    let back := min m.watch.reverse (m.progress a)
    (back = 0 → fails t o x .obstructed false) ∧
    (0 < back → (t.dock d).command = .brake ∧ t.map = c.map ∧ t.arb = c.arb ∧
      (∃ b m', t.driven? d = some (b, m') ∧ m'.stall = none ∧ m'.watch.reverseFirst = true ∧
        m'.watch.reverseEnd = some (a.tracked - m.dir.along back) ∧
        m'.watch.reverseSpeed = m.creepSpeed a.kind (c.dock d).occupancy ∧ m'.watch.currentCount = 0 ∧ m'.watch.speedCount = 0) ∧
      becomes t o x fun y => y.state = .reversing ∧ ∃ r, y.obstruction = some r ∧ r.cause = cause ∧ r.position = a.count ∧
        r.backOff = back ∧ r.covered = 0 ∧ r.filtered = filtered.map Int.toNat)
  (∀ (s : State) (d : Dock), ((s.cab.driven? d).bind fun p => p.2.stall) = none →
    exec (.stallTimerExpiry d) s = .next s.quietWires) ∧
  (∀ (s : State) (d : Dock) (a : Axis) (m : Move) (o : Order) (x : Step) (k : Nat), drives s.cab d a m o x → m.stall = some k →
    let c := ({ s.cab with now := max s.cab.now k }).stalled d
    let F := (c.dock d).footprint
    let ended (n : Nat) (ref : RefState) : Prop := (c.dock d).command = .brake ∧ c.Pends (.posture d) ∧
      c.map = ((s.cab.map.unreserve d).install (.dock d) F).trim (.dock d) F ∧ becomes c o x (fun y => y.state = .done) ∧
      ∃ b, c.axis? d a.kind = some b ∧ b.count = n ∧ b.overrun = 0 ∧ b.ref = ref ∧ b.move = none
    let notice (i : Indication) : Prop := ⟨.reference d (s.cab.axisIndex d a.kind), some i⟩ ∈ c.notices
    let atEnd : Prop := m.kind ≠ .homing ∧ (m.target = 0 ∨ m.target = a.travel) ∧ m.rem ≤ m.progress a
    let e := (a.tracked - m.target).natAbs
    ∃ t, exec (.stallTimerExpiry d) s = .next t ∧ t.cab.set = s.cab.set ∧ t.cab.now = max s.cab.now k ∧ t.store = s.store ∧
      t.pad = s.pad ∧ { t.cab with docks := c.cascade.docks } = c.cascade ∧ (s.port.sleepHeld = false → t.cab = c.cascade) ∧
      (x.state = .starting ∨ x.state = .running →
        (m.kind = .homing → ended 0 .referenced ∧ notice .homed ∧
          ∃ b, c.axis? d a.kind = some b ∧ b.faultTime = none ∧ b.suppression = none) ∧
        (atEnd → a.ref ≠ .referenced → ended m.target a.ref) ∧
        (atEnd → a.ref = .referenced → e * 64 ≤ a.travel → ended m.target .referenced) ∧
        (atEnd → a.ref = .referenced → a.travel < e * 64 → e * 16 ≤ a.travel →
          ended m.target .referenced ∧ notice (.corrected e)) ∧
        (atEnd → a.ref = .referenced → a.travel < e * 16 → fails c o x .referenceFault false ∧ notice (.fault e) ∧
          ∃ b, c.axis? d a.kind = some b ∧ b.count = a.count ∧ b.overrun = 0 ∧ b.ref = .referenceFault ∧
            b.faultTime = some c.now ∧ b.suppression = some (c.now + 30000))) ∧
      (x.state = .running → m.kind ≠ .homing → ¬ atEnd → obstructed s.cab c d a m o x .stall m.watch.filtered) ∧
      (x.state = .stopping → atEnd → stops c d a o x fun y => y.obstruction = x.obstruction) ∧
      (x.state = .stopping → m.kind ≠ .homing → ¬ atEnd → stops c d a o x (recorded a .stall m.watch.filtered)) ∧
      (x.state = .reversing → fails c o x .obstructed true)) ∧
  (∀ (c : Cabin) (d : Dock) (a : Axis) (m : Move) (o : Order) (x : Step) (f : StatusFrame) (first : Bool) (change : Int),
    drives c d a m o x →
    let w := m.watch
    let current := f.current
    let station := a.baselineStation (c.dock d).geometry a.count
    let If : Int := if w.reverseFresh = true ∧ w.reverseFirst = false then current
      else match w.filtered with
        | none => current
        | some v => v + ((current : Int) - v) * w.beta / 256
    let takes (t : Cabin) (P : Watch → Prop) : Prop := ∃ b m', t.driven? d = some (b, m') ∧ m'.watch.filtered = some If ∧
      (m'.watch.occupiedSeen = true ↔ w.occupiedSeen = true ∨ (c.dock d).occupancy ≠ .none) ∧ P m'.watch
    let stalls : Prop := a.stallThreshold < current ∧ change = 0
    let timed (t : Cabin) : Prop := ∃ b m', t.driven? d = some (b, m') ∧
      (stalls → m'.stall = some (m.stall.getD (c.now + 150))) ∧ (¬ stalls → m'.stall = none)
    let untimed (t : Cabin) : Prop := ∃ b m', t.driven? d = some (b, m') ∧ m'.stall = m.stall
    let above : Prop := ((a.baselines.getD station 0 + w.margin : Nat) : Int) < If
    let slow (dir : Direction) : Prop := ∃ before v, w.previous = some (before, v) ∧ 0 < v * (c.now - before) / 1000 ∧
      2 * dir.along change < ((v * (c.now - before) / 1000 : Nat) : Int)
    (x.state = .starting ∨ x.state = .running ∨ x.state = .stopping →
      let p := m.progress a
      let opened : Prop := w.judging = true ∨ m.rampEff ≤ p
      let creep : Prop := (m.kind = .homing ∨ m.target = 0 ∨ m.target = a.travel) ∧ m.rem ≤ p
      let judged : Prop := x.state ≠ .starting ∧ x.kind ≠ .homing ∧ first = false ∧ opened ∧ ¬ creep
      let t := Cabin.runTask (.judge d m.step f first false change) (c.watchFrame d current)
      let goesOn (cc sc : Nat) : Prop := t.pool = c.pool ∧ t.map = c.map ∧ t.arb = c.arb ∧
        (t.dock d).command = .drive (c.axisIndex d a.kind) m.dir (c.frameSetpoint d a m) ∧
        takes t fun u => u.currentCount = cc ∧ u.speedCount = sc ∧ (u.judging = true ↔ opened) ∧
          u.previous = some (c.now, c.frameSetpoint d a m) ∧
          (judged → u.sums = addToStation w.sums station current) ∧ (¬ judged → u.sums = w.sums)
      let struck (cause : ObstCause) : Prop := (x.state = .running → obstructed c t d a m o x cause (some If)) ∧
        (x.state = .stopping → stops t d a o x (recorded a cause (some If)))
      (judged → above → 2 ≤ w.currentCount → struck .current) ∧
      (judged → ¬ (above ∧ 2 ≤ w.currentCount) → slow m.dir → 2 ≤ w.speedCount → struck .speed) ∧
      (judged → above → w.currentCount < 2 → slow m.dir → w.speedCount < 2 →
        goesOn (w.currentCount + 1) (w.speedCount + 1)) ∧
      (judged → above → w.currentCount < 2 → ¬ slow m.dir → goesOn (w.currentCount + 1) 0) ∧
      (judged → ¬ above → slow m.dir → w.speedCount < 2 → goesOn 0 (w.speedCount + 1)) ∧
      (judged → ¬ above → ¬ slow m.dir → goesOn 0 0) ∧
      (¬ judged → creep → goesOn 0 0) ∧
      (¬ judged → ¬ creep → goesOn w.currentCount w.speedCount)) ∧
    (∀ stop, x.state = .reversing → w.reverseEnd = some stop →
      let left := m.dir.reverse.along (stop - a.tracked)
      let second : Prop := above ∧ 2 ≤ w.currentCount ∨ slow m.dir.reverse ∧ 2 ≤ w.speedCount
      let t := Cabin.runTask (.judge d m.step f first true change) (c.watchFrame d current)
      (w.reverseFirst = true → left ≤ 0 → fails t o x .obstructed false) ∧
      (w.reverseFirst = true → 0 < left → t.pool = c.pool ∧ t.arb = c.arb ∧ t.map = c.map ∧
        (t.dock d).command = .drive (c.axisIndex d a.kind) m.dir.reverse w.reverseSpeed ∧
        takes t fun u => u.reverseFresh = true ∧ u.reverseFirst = false ∧ u.previous = some (c.now, w.reverseSpeed)) ∧
      (w.reverseFirst = false → left ≤ 2 → fails t o x .obstructed false) ∧
      (w.reverseFirst = false → 2 < left → second → fails t o x .obstructed true) ∧
      (w.reverseFirst = false → 2 < left → ¬ second → t.pool = c.pool ∧ t.arb = c.arb ∧ t.map = c.map ∧
        (t.dock d).command = (c.dock d).command ∧ timed t ∧
          takes t fun u => u.reverseFresh = false ∧ u.previous = some (c.now, w.reverseSpeed))) ∧
    (let extreme : Prop := m.kind = .homing ∨ m.target = 0 ∨ m.target = a.travel
      let t := c.movingFrame d f change
      let notes : Prop := takes t fun u => u = { w with filtered := u.filtered, occupiedSeen := u.occupiedSeen }
      (x.state = .running ∨ x.state = .starting ∧ change ≠ 0 → a.overran = false → extreme ∨ 2 < m.remaining a →
        ¬ ((m.kind = .homing ∨ m.kind = .jog ∧ a.ref = .unreferenced) ∧ a.travel + a.travel / 4 < m.runLength) →
        t.agenda = c.agenda ++ [.judge d m.step f (x.state = .starting) false change] ∧ notes ∧ timed t) ∧
      (x.state = .starting → change = 0 → a.overran = false → notes ∧
        (m.kind = .homing ∨ (m.target = 0 ∨ m.target = a.travel) ∧ m.rem ≤ m.progress a → timed t) ∧
        (m.kind ≠ .homing → m.target ≠ 0 ∧ m.target ≠ a.travel ∨ m.progress a < m.rem → untimed t))) ∧
    (∀ plan, x.state = .stopping → a.overran = false → m.stop = some plan →
      let z : Int := plan.length - m.dir.along (a.tracked - plan.origin)
      let ends : Prop := z ≤ 0 ∨ m.kind ≠ .homing ∧ m.target ≠ 0 ∧ m.target ≠ a.travel ∧ m.remaining a ≤ 2
      (ends → c.movingFrame d f change = c.endStopping d) ∧
      (¬ ends → (c.movingFrame d f change).agenda = c.agenda ++ [.judge d m.step f false false change] ∧
        timed (c.movingFrame d f change) ∧
        takes (c.movingFrame d f change) fun u => u = { w with filtered := u.filtered, occupiedSeen := u.occupiedSeen })) ∧
    (x.state = .reversing → a.overran = false →
      (c.movingFrame d f change).agenda = c.agenda ++ [.judge d m.step f false true change] ∧
      untimed (c.movingFrame d f change) ∧
      takes (c.movingFrame d f change) fun u => u = { w with filtered := u.filtered, occupiedSeen := u.occupiedSeen }) ∧
    (x.state = .reversing → Cabin.runTask (.judge d m.step f first false change) c = c) ∧
    ((c.finishMove d).axis? d a.kind).map (·.baselines) = some (a.learn m).baselines) ∧
  (∀ (c : Cabin) (d : Dock) (a : Axis) (m : Move) (o : Order) (x : Step), drives c d a m o x → c.movingStep? d = some (o, x) →
    (∀ task, x.fold = true → task = .channelTold d x.foldChannel ∨ task = .foldAtGrant d →
      let t := Cabin.runTask task c
      let touched : Prop := ∃ z, (c.dock d).chan? x.foldChannel = some z ∧ z.state = .touch
      let stands : Prop := t.pool = c.pool ∧ t.map = c.map ∧ t.arb = c.arb ∧ t.docks = c.docks
      (task = .channelTold d x.foldChannel → .retryClaims ∈ t.agenda) ∧
      (¬ touched → stands) ∧
      (touched → x.state = .reversing → stands) ∧
      (touched → x.state = .starting → fails t o x .obstructed false ∧ becomes t o x (recorded a .foldPath none) ∧
        t.arb.window.get d = none) ∧
      (touched → x.state = .running → obstructed c t d a m o x .foldPath m.watch.filtered) ∧
      (touched → x.state = .stopping → stops t d a o x (recorded a .foldPath m.watch.filtered))) ∧
    ((c.dock d).occupancy ≠ .none → x.restricted (c.dock d) = true →
      (∀ p ∈ c.activeOrders, ∀ y ∈ p.steps, y.dock = d → y.state ≠ .claiming ∧ y.state ≠ .powering) →
      let t := Cabin.runTask (.occupancyTold d) c
      .release m.step ∈ t.agenda ∧
      (x.state = .starting ∨ x.state = .running ∨ x.state = .stopping → fails t o x .occupied false) ∧
      (x.state = .reversing → fails t o x .obstructed true))) ∧
  ∀ (a : Axis) (m : Move),
    let b := a.learn m
    (m.kind = .homing ∨ m.watch.occupiedSeen = true ∨ m.watch.obstruction ≠ none → b = a) ∧
    (m.kind ≠ .homing → m.watch.occupiedSeen = false → m.watch.obstruction = none →
      (b.reseed = true ↔ a.reseed = true ∧ ∀ p ∈ m.watch.sums, p.2 = 0) ∧
      ∀ i v sum n : Nat, a.baselines[i]? = some v → m.watch.sums[i]? = some (sum, n) →
        (n = 0 → b.baselines[i]? = some v) ∧ (0 < n → a.reseed = true → b.baselines[i]? = some (sum / n)) ∧
        (0 < n → a.reseed = false → ∃ v', b.baselines[i]? = some v' ∧ (v' : Int) = v + (((sum / n : Nat) : Int) - v).tdiv 8))

/-- R90, R91, R118, R153, R155, R162, R165: a suppression timer's expiry and the touch limit. The axis's or channel's timer
is stopped. At that of an axis every step in CLAIMING of an ACTIVE order makes one attempt, oldest order first and in step order
(R91), and what each tells is taken before the next (log 3): the HOMING step that waited with REFERENCE_WAIT among them, whose
attempt (StepsAreSequencedAndArbitrated) goes on 30 s after the fault. A channel that was in FAULT begins tuning (told of a seat
channel where no order is active), and what its change tells is taken; a touch reaches EXPIRED with its elapsed time, at its own
moment without a frame (log 40), and in HELD the jog it began ends, its step by its state. The channel's dock may be in any state
(log 73), and so may an electrode's pad (log 85) and its touch (log 88). On a stopped timer nothing happens. The clock goes to the
timer's moment (log 2). -/
def Obligations.SuppressionsAndTouchesExpire : Prop :=
  let late (s : State) (v : Nat) : Cabin := { s.cab with now := max s.cab.now v }
  let told (s t : State) (c : Cabin) : Prop := { t.cab with docks := c.docks } = c ∧ (s.port.sleepHeld = false → t.cab = c)
  let attempts (c : Cabin) : List Task := (c.activeOrders.filter fun o => o.state = .active).flatMap fun o =>
    (o.steps.filter fun x => x.state = .claiming).map fun x => .attempt (o.ref x)
  ∀ s : State, s.cab.agenda = [] →
    (∀ d k a v, s.cab.axis? d k = some a → a.suppression = some v →
      ∃ t, exec (.referenceSuppressionExpiry d k) s = .next t ∧ t.cab.now = max s.cab.now v ∧ t.cab.set = s.cab.set ∧
        (∀ b ∈ (t.cab.dock d).axes, b.kind = k → b.suppression = none) ∧
        told s t (Cabin.drain 4095 (attempts s.cab) ((late s v).modAxis d k fun b => { b with suppression := none }))) ∧
    (∀ d k, ((s.cab.axis? d k).bind fun a => a.suppression) = none →
      exec (.referenceSuppressionExpiry d k) s = .next s.quietWires) ∧
    (∀ d ch x v, (s.cab.dock d).chan? ch = some x → x.suppression = some v →
      ∃ t, exec (.presenceSuppressionExpiry (.seat d ch)) s = .next t ∧ t.cab.now = max s.cab.now v ∧ t.cab.set = s.cab.set ∧
        (∀ y ∈ (t.cab.dock d).chans, y.kind = ch.kind → y.suppression = none) ∧
        (x.state = .fault → s.cab.activeOrders = [] → ∀ y, (t.cab.dock d).chan? ch = some y → y.state = .tuning ∧ y.comp = 512) ∧
        told s t ((late s v).modChan d ch Chan.unsuppress).cascade) ∧
    (∀ d ch, (((s.cab.dock d).chan? ch).bind fun x => x.suppression) = none →
      exec (.presenceSuppressionExpiry (.seat d ch)) s = .next s.quietWires) ∧
    (∀ (e : Fin 4) x v, s.pad.electrodes[e.val]? = some x → x.suppression = some v →
      ∃ t, exec (.presenceSuppressionExpiry (.strip e)) s = .next t ∧ told s t (late s v) ∧
        t.pad.electrodes.length = s.pad.electrodes.length ∧
        t.pad.electrodes[e.val]? = some (if x.state = .fault then { x with suppression := none }.beginTuning
          else { x with suppression := none }) ∧
        ∀ i : Nat, i ≠ e.val → t.pad.electrodes[i]? = s.pad.electrodes[i]?) ∧
    (∀ e : Fin 4, (s.pad.electrodes[e.val]?.bind fun x => x.suppression) = none →
      exec (.presenceSuppressionExpiry (.strip e)) s = .next s.quietWires) ∧
    (∀ p, s.pad.touch = some p → p.phase ≠ .expired →
      ∃ t, exec .touchExpiry s = .next t ∧ t.cab.now = max s.cab.now (p.startTime + 4000) ∧
        t.pad = { s.pad with touch := some { p with phase := .expired, elapsed := t.cab.now - p.startTime } } ∧
        t.cab.set = s.cab.set ∧ (p.phase ≠ .held → told s t (late s (p.startTime + 4000))) ∧
        (p.phase = .held → t.cab.jog = none ∧ told s t (late s (p.startTime + 4000)).endJog.cascade)) ∧
    (s.pad.touch = none ∨ (∃ p, s.pad.touch = some p ∧ p.phase = .expired) → exec .touchExpiry s = .next s.quietWires)

/-! ### The Settings Store -/

/-- R70, R177: the store's writes. A settings write begins with the record due that no record due stands before in the table
of section 10.6, its flag cleared and its contents copied; a layout write, where no settings record is due, with the lowest dirty
number; neither begins while one runs, in SLEEP, or with a reset waiting (log 37). A completion whose read-back passes stands in
the memory; one that fails makes STORE pending with WRITE_FAILED and leaves the memory. A layout record is then STORED, VOLATILE,
or PENDING where its number is dirty again. A table write stays in progress while its record is due again (log 67). -/
def Obligations.StoreWritesBeginAndComplete : Prop :=
  let table : List SettingsId := [.identifiers, .geometry, .dockTable, .budget, .limits, .overrides, .bindings]
  (∀ (s : State) (i : SettingsId), s.store.writing = none → s.port.power ≠ .sleep → s.port.resetting = false →
    i ∈ s.store.due → (∀ j ∈ s.store.due, table.idxOf i ≤ table.idxOf j) →
    ∃ t, exec .settingsWriteBegin s = .next t ∧ t.cab = s.cab ∧ s.SameBeside t ∧
      t.store.writing = some (.settings (s.cab.set.copyOf i)) ∧ (∀ j, j ∈ t.store.due ↔ j ∈ s.store.due ∧ j ≠ i) ∧
      { t.store with writing := none, due := s.store.due } = s.store ∧
      exec .layoutWriteBegin s = .next s.quietWires) ∧
  (∀ (s : State) (n : Nat) (rest : List Nat), s.store.writing = none → s.port.power ≠ .sleep → s.port.resetting = false →
    s.store.due = [] → s.cab.layouts.dirty = n :: rest →
    ∃ t, exec .layoutWriteBegin s = .next t ∧ s.SameBeside t ∧
      t.cab = { s.cab with layouts := { s.cab.layouts with dirty := rest } } ∧
      t.store = { s.store with writing := some (.layout n ((s.cab.layouts.find? n).map LayoutRec.toStored)) }) ∧
  (∀ s : State, s.store.writing ≠ none ∨ s.port.power = .sleep ∨ s.port.resetting = true →
    exec .settingsWriteBegin s = .next s.quietWires ∧ exec .layoutWriteBegin s = .next s.quietWires) ∧
  (∀ (s : State) (copy : SettingsCopy), s.store.writing = some (.settings copy) →
    (∃ t, exec (.settingsWriteComplete true) s = .next t ∧ t.store.writing = none ∧
      t.store.nv = s.store.nv.write (.settings copy) ∧ t.store.nv.settings.copyOf copy.id = copy ∧ t.cab = s.cab ∧
      s.SameBeside t ∧ t.store.due = s.store.due ∧
      t.store.geometryBusy = (s.store.geometryBusy && !decide (copy.id = .geometry ∧ SettingsId.geometry ∉ s.store.due)) ∧
      t.store.dockTableBusy = (s.store.dockTableBusy && !decide (copy.id = .dockTable ∧ SettingsId.dockTable ∉ s.store.due))) ∧
    (∃ t, exec (.settingsWriteComplete false) s = .next t ∧ t.store.writing = none ∧ t.store.nv = s.store.nv ∧
      ⟨.store (.settings copy.id), some .writeFailed⟩ ∈ t.cab.notices ∧
      { t.cab with notices := s.cab.notices } = s.cab ∧ s.SameBeside t)) ∧
  ∀ (s : State) (n : Nat) (copy : Option StoredLayout), s.store.writing = some (.layout n copy) →
    let after (t : State) (ok : Bool) : Prop :=
      t.store.writing = none ∧ s.SameBeside t ∧ { t.cab with layouts := s.cab.layouts, notices := s.cab.notices } = s.cab ∧
      t.cab.layouts = { s.cab.layouts with live := s.cab.layouts.live.map fun l => if l.number = n then
        { l with store := if n ∈ s.cab.layouts.dirty then .pending else if ok then .stored else .volatile } else l }
    (∃ t, exec (.layoutWriteComplete true) s = .next t ∧ after t true ∧ t.cab.notices = s.cab.notices ∧
      (∀ x, (copy = some x ∨ x ∈ s.store.nv.layouts ∧ x.number ≠ n) ↔ x ∈ t.store.nv.layouts)) ∧
    (∃ t, exec (.layoutWriteComplete false) s = .next t ∧ after t false ∧ t.store.nv = s.store.nv ∧
      ⟨.store (.layout n), some .writeFailed⟩ ∈ t.cab.notices)
end

