-- ==== Sys2Proof/Laws/State.lean ====
section
/-! SUPPORT. The small lemmas of the state's records: what each update changes, field by field, and what the tables with
one place per dock, slot or holder hold after a write. -/

namespace Sys2Proof.Machine

open Sys2Proof

/-! ### Tables -/

namespace PerDock

variable {α β : Type}

@[simp] theorem get_rep (a : α) (d : Dock) : (rep a).get d = a := by cases d <;> rfl

@[simp] theorem get_ofFn (f : Dock → α) (d : Dock) : (ofFn f).get d = f d := by cases d <;> rfl

@[simp] theorem get_map (f : α → β) (p : PerDock α) (d : Dock) : (p.map f).get d = f (p.get d) := by cases d <;> rfl

@[simp] theorem get_set_self (p : PerDock α) (d : Dock) (a : α) : (p.set d a).get d = a := by cases d <;> rfl

theorem get_set_ne (p : PerDock α) {d e : Dock} (a : α) (h : e ≠ d) : (p.set d a).get e = p.get e := by
  cases d <;> cases e <;> first | rfl | exact absurd rfl h

theorem get_set (p : PerDock α) (d e : Dock) (a : α) : (p.set d a).get e = if e = d then a else p.get e := by
  split
  · next h => rw [h, get_set_self]
  · next h => exact get_set_ne p a h

@[simp] theorem set_get_self (p : PerDock α) (d : Dock) : p.set d (p.get d) = p := by cases d <;> rfl

@[simp] theorem set_set_self (p : PerDock α) (d : Dock) (a b : α) : (p.set d a).set d b = p.set d b := by
  cases d <;> rfl

theorem ext_get {p q : PerDock α} (h : ∀ d, p.get d = q.get d) : p = q := by
  obtain ⟨p1, p2, p3, p4, p5⟩ := p
  obtain ⟨q1, q2, q3, q4, q5⟩ := q
  have h1 : p1 = q1 := h .d1
  have h2 : p2 = q2 := h .d2
  have h3 : p3 = q3 := h .d3
  have h4 : p4 = q4 := h .d4
  have h5 : p5 = q5 := h .d5
  rw [h1, h2, h3, h4, h5]

end PerDock

namespace PerSlot

variable {α : Type}

@[simp] theorem get_rep (a : α) (s : Slot) : (rep a).get s = a := by cases s <;> rfl

@[simp] theorem get_set_self (p : PerSlot α) (s : Slot) (a : α) : (p.set s a).get s = a := by cases s <;> rfl

theorem get_set_ne (p : PerSlot α) {s t : Slot} (a : α) (h : t ≠ s) : (p.set s a).get t = p.get t := by
  cases s <;> cases t <;> first | rfl | exact absurd rfl h

theorem get_set (p : PerSlot α) (s t : Slot) (a : α) : (p.set s a).get t = if t = s then a else p.get t := by
  split
  · next h => rw [h, get_set_self]
  · next h => exact get_set_ne p a h

@[simp] theorem set_get_self (p : PerSlot α) (s : Slot) : p.set s (p.get s) = p := by cases s <;> rfl

end PerSlot

namespace PerHolder

variable {α : Type}

@[simp] theorem get_rep (a : α) (h : Holder) : (rep a).get h = a := by
  cases h with
  | dock d => exact PerDock.get_rep a d
  | frontL => rfl
  | frontR => rfl

@[simp] theorem get_ofFn (f : Holder → α) (h : Holder) : (ofFn f).get h = f h := by
  cases h with
  | dock d => exact PerDock.get_ofFn _ d
  | frontL => rfl
  | frontR => rfl

@[simp] theorem get_set_self (p : PerHolder α) (h : Holder) (a : α) : (p.set h a).get h = a := by
  cases h with
  | dock d => exact PerDock.get_set_self _ d a
  | frontL => rfl
  | frontR => rfl

theorem get_set_ne (p : PerHolder α) {h g : Holder} (a : α) (hg : g ≠ h) : (p.set h a).get g = p.get g := by
  cases h with
  | dock d =>
    cases g with
    | dock e => exact PerDock.get_set_ne _ a fun he => hg (congrArg Holder.dock he)
    | frontL => rfl
    | frontR => rfl
  | frontL => cases g <;> first | rfl | exact absurd rfl hg
  | frontR => cases g <;> first | rfl | exact absurd rfl hg

theorem get_set (p : PerHolder α) (h g : Holder) (a : α) : (p.set h a).get g = if g = h then a else p.get g := by
  split
  · next e => rw [e, get_set_self]
  · next e => exact get_set_ne p a e

end PerHolder

/-! ### Updates of the cabin -/

namespace Cabin

variable (c : Cabin)

@[simp] theorem notify_now (s : Subject) (i : Option Indication) : (c.notify s i).now = c.now := rfl
@[simp] theorem notify_set (s : Subject) (i : Option Indication) : (c.notify s i).set = c.set := rfl
@[simp] theorem notify_envelopes (s : Subject) (i : Option Indication) : (c.notify s i).envelopes = c.envelopes := rfl
@[simp] theorem notify_docks (s : Subject) (i : Option Indication) : (c.notify s i).docks = c.docks := rfl
@[simp] theorem notify_map (s : Subject) (i : Option Indication) : (c.notify s i).map = c.map := rfl
@[simp] theorem notify_layouts (s : Subject) (i : Option Indication) : (c.notify s i).layouts = c.layouts := rfl
@[simp] theorem notify_pool (s : Subject) (i : Option Indication) : (c.notify s i).pool = c.pool := rfl
@[simp] theorem notify_arb (s : Subject) (i : Option Indication) : (c.notify s i).arb = c.arb := rfl
@[simp] theorem notify_streams (s : Subject) (i : Option Indication) : (c.notify s i).streams = c.streams := rfl
@[simp] theorem notify_jog (s : Subject) (i : Option Indication) : (c.notify s i).jog = c.jog := rfl
@[simp] theorem notify_agenda (s : Subject) (i : Option Indication) : (c.notify s i).agenda = c.agenda := rfl

@[simp] theorem spawn_now (l : List Task) : (c.spawn l).now = c.now := rfl
@[simp] theorem spawn_set (l : List Task) : (c.spawn l).set = c.set := rfl
@[simp] theorem spawn_envelopes (l : List Task) : (c.spawn l).envelopes = c.envelopes := rfl
@[simp] theorem spawn_docks (l : List Task) : (c.spawn l).docks = c.docks := rfl
@[simp] theorem spawn_map (l : List Task) : (c.spawn l).map = c.map := rfl
@[simp] theorem spawn_layouts (l : List Task) : (c.spawn l).layouts = c.layouts := rfl
@[simp] theorem spawn_pool (l : List Task) : (c.spawn l).pool = c.pool := rfl
@[simp] theorem spawn_arb (l : List Task) : (c.spawn l).arb = c.arb := rfl
@[simp] theorem spawn_notices (l : List Task) : (c.spawn l).notices = c.notices := rfl
@[simp] theorem spawn_streams (l : List Task) : (c.spawn l).streams = c.streams := rfl
@[simp] theorem spawn_jog (l : List Task) : (c.spawn l).jog = c.jog := rfl

@[simp] theorem setDock_now (d : Dock) (r : DockRec) : (c.setDock d r).now = c.now := rfl
@[simp] theorem setDock_set (d : Dock) (r : DockRec) : (c.setDock d r).set = c.set := rfl
@[simp] theorem setDock_envelopes (d : Dock) (r : DockRec) : (c.setDock d r).envelopes = c.envelopes := rfl
@[simp] theorem setDock_map (d : Dock) (r : DockRec) : (c.setDock d r).map = c.map := rfl
@[simp] theorem setDock_layouts (d : Dock) (r : DockRec) : (c.setDock d r).layouts = c.layouts := rfl
@[simp] theorem setDock_pool (d : Dock) (r : DockRec) : (c.setDock d r).pool = c.pool := rfl
@[simp] theorem setDock_arb (d : Dock) (r : DockRec) : (c.setDock d r).arb = c.arb := rfl
@[simp] theorem setDock_notices (d : Dock) (r : DockRec) : (c.setDock d r).notices = c.notices := rfl
@[simp] theorem setDock_streams (d : Dock) (r : DockRec) : (c.setDock d r).streams = c.streams := rfl
@[simp] theorem setDock_jog (d : Dock) (r : DockRec) : (c.setDock d r).jog = c.jog := rfl
@[simp] theorem setDock_agenda (d : Dock) (r : DockRec) : (c.setDock d r).agenda = c.agenda := rfl

@[simp] theorem modDock_now (d : Dock) (f : DockRec → DockRec) : (c.modDock d f).now = c.now := rfl
@[simp] theorem modDock_set (d : Dock) (f : DockRec → DockRec) : (c.modDock d f).set = c.set := rfl
@[simp] theorem modDock_envelopes (d : Dock) (f : DockRec → DockRec) : (c.modDock d f).envelopes = c.envelopes := rfl
@[simp] theorem modDock_map (d : Dock) (f : DockRec → DockRec) : (c.modDock d f).map = c.map := rfl
@[simp] theorem modDock_layouts (d : Dock) (f : DockRec → DockRec) : (c.modDock d f).layouts = c.layouts := rfl
@[simp] theorem modDock_pool (d : Dock) (f : DockRec → DockRec) : (c.modDock d f).pool = c.pool := rfl
@[simp] theorem modDock_arb (d : Dock) (f : DockRec → DockRec) : (c.modDock d f).arb = c.arb := rfl
@[simp] theorem modDock_notices (d : Dock) (f : DockRec → DockRec) : (c.modDock d f).notices = c.notices := rfl
@[simp] theorem modDock_streams (d : Dock) (f : DockRec → DockRec) : (c.modDock d f).streams = c.streams := rfl
@[simp] theorem modDock_jog (d : Dock) (f : DockRec → DockRec) : (c.modDock d f).jog = c.jog := rfl
@[simp] theorem modDock_agenda (d : Dock) (f : DockRec → DockRec) : (c.modDock d f).agenda = c.agenda := rfl

@[simp] theorem modAxis_now (d : Dock) (k : AxisKind) (f : Axis → Axis) : (c.modAxis d k f).now = c.now := rfl
@[simp] theorem modAxis_set (d : Dock) (k : AxisKind) (f : Axis → Axis) : (c.modAxis d k f).set = c.set := rfl
@[simp] theorem modAxis_envelopes (d : Dock) (k : AxisKind) (f : Axis → Axis) : (c.modAxis d k f).envelopes = c.envelopes := rfl
@[simp] theorem modAxis_map (d : Dock) (k : AxisKind) (f : Axis → Axis) : (c.modAxis d k f).map = c.map := rfl
@[simp] theorem modAxis_layouts (d : Dock) (k : AxisKind) (f : Axis → Axis) : (c.modAxis d k f).layouts = c.layouts := rfl
@[simp] theorem modAxis_pool (d : Dock) (k : AxisKind) (f : Axis → Axis) : (c.modAxis d k f).pool = c.pool := rfl
@[simp] theorem modAxis_arb (d : Dock) (k : AxisKind) (f : Axis → Axis) : (c.modAxis d k f).arb = c.arb := rfl
@[simp] theorem modAxis_notices (d : Dock) (k : AxisKind) (f : Axis → Axis) : (c.modAxis d k f).notices = c.notices := rfl
@[simp] theorem modAxis_streams (d : Dock) (k : AxisKind) (f : Axis → Axis) : (c.modAxis d k f).streams = c.streams := rfl
@[simp] theorem modAxis_jog (d : Dock) (k : AxisKind) (f : Axis → Axis) : (c.modAxis d k f).jog = c.jog := rfl
@[simp] theorem modAxis_agenda (d : Dock) (k : AxisKind) (f : Axis → Axis) : (c.modAxis d k f).agenda = c.agenda := rfl

@[simp] theorem modMove_now (d : Dock) (f : Move → Move) : (c.modMove d f).now = c.now := rfl
@[simp] theorem modMove_set (d : Dock) (f : Move → Move) : (c.modMove d f).set = c.set := rfl
@[simp] theorem modMove_envelopes (d : Dock) (f : Move → Move) : (c.modMove d f).envelopes = c.envelopes := rfl
@[simp] theorem modMove_map (d : Dock) (f : Move → Move) : (c.modMove d f).map = c.map := rfl
@[simp] theorem modMove_layouts (d : Dock) (f : Move → Move) : (c.modMove d f).layouts = c.layouts := rfl
@[simp] theorem modMove_pool (d : Dock) (f : Move → Move) : (c.modMove d f).pool = c.pool := rfl
@[simp] theorem modMove_arb (d : Dock) (f : Move → Move) : (c.modMove d f).arb = c.arb := rfl
@[simp] theorem modMove_notices (d : Dock) (f : Move → Move) : (c.modMove d f).notices = c.notices := rfl
@[simp] theorem modMove_streams (d : Dock) (f : Move → Move) : (c.modMove d f).streams = c.streams := rfl
@[simp] theorem modMove_jog (d : Dock) (f : Move → Move) : (c.modMove d f).jog = c.jog := rfl
@[simp] theorem modMove_agenda (d : Dock) (f : Move → Move) : (c.modMove d f).agenda = c.agenda := rfl

@[simp] theorem stopWindow_now (d : Dock) : (c.stopWindow d).now = c.now := rfl
@[simp] theorem stopWindow_set (d : Dock) : (c.stopWindow d).set = c.set := rfl
@[simp] theorem stopWindow_envelopes (d : Dock) : (c.stopWindow d).envelopes = c.envelopes := rfl
@[simp] theorem stopWindow_docks (d : Dock) : (c.stopWindow d).docks = c.docks := rfl
@[simp] theorem stopWindow_map (d : Dock) : (c.stopWindow d).map = c.map := rfl
@[simp] theorem stopWindow_layouts (d : Dock) : (c.stopWindow d).layouts = c.layouts := rfl
@[simp] theorem stopWindow_pool (d : Dock) : (c.stopWindow d).pool = c.pool := rfl
@[simp] theorem stopWindow_notices (d : Dock) : (c.stopWindow d).notices = c.notices := rfl
@[simp] theorem stopWindow_streams (d : Dock) : (c.stopWindow d).streams = c.streams := rfl
@[simp] theorem stopWindow_jog (d : Dock) : (c.stopWindow d).jog = c.jog := rfl
@[simp] theorem stopWindow_agenda (d : Dock) : (c.stopWindow d).agenda = c.agenda := rfl

@[simp] theorem dropGrant_now (r : StepRef) : (c.dropGrant r).now = c.now := rfl
@[simp] theorem dropGrant_set (r : StepRef) : (c.dropGrant r).set = c.set := rfl
@[simp] theorem dropGrant_envelopes (r : StepRef) : (c.dropGrant r).envelopes = c.envelopes := rfl
@[simp] theorem dropGrant_docks (r : StepRef) : (c.dropGrant r).docks = c.docks := rfl
@[simp] theorem dropGrant_map (r : StepRef) : (c.dropGrant r).map = c.map := rfl
@[simp] theorem dropGrant_layouts (r : StepRef) : (c.dropGrant r).layouts = c.layouts := rfl
@[simp] theorem dropGrant_pool (r : StepRef) : (c.dropGrant r).pool = c.pool := rfl
@[simp] theorem dropGrant_notices (r : StepRef) : (c.dropGrant r).notices = c.notices := rfl
@[simp] theorem dropGrant_streams (r : StepRef) : (c.dropGrant r).streams = c.streams := rfl
@[simp] theorem dropGrant_jog (r : StepRef) : (c.dropGrant r).jog = c.jog := rfl
@[simp] theorem dropGrant_agenda (r : StepRef) : (c.dropGrant r).agenda = c.agenda := rfl

@[simp] theorem notify_notices (s : Subject) (i : Option Indication) : (c.notify s i).notices = pend c.notices s i := rfl
@[simp] theorem spawn_agenda (l : List Task) : (c.spawn l).agenda = c.agenda ++ l := rfl
@[simp] theorem setDock_docks (d : Dock) (r : DockRec) : (c.setDock d r).docks = c.docks.set d r := rfl
@[simp] theorem modDock_docks (d : Dock) (f : DockRec → DockRec) : (c.modDock d f).docks = c.docks.set d (f (c.dock d)) := rfl

@[simp] theorem dock_notify (s : Subject) (i : Option Indication) (d : Dock) : (c.notify s i).dock d = c.dock d := rfl
@[simp] theorem dock_spawn (l : List Task) (d : Dock) : (c.spawn l).dock d = c.dock d := rfl
@[simp] theorem dock_setDock_self (d : Dock) (r : DockRec) : (c.setDock d r).dock d = r := PerDock.get_set_self _ _ _
@[simp] theorem dock_modDock_self (d : Dock) (f : DockRec → DockRec) : (c.modDock d f).dock d = f (c.dock d) :=
  PerDock.get_set_self _ _ _

theorem dock_setDock_ne {d e : Dock} (r : DockRec) (h : e ≠ d) : (c.setDock d r).dock e = c.dock e :=
  PerDock.get_set_ne _ _ h

theorem dock_modDock_ne {d e : Dock} (f : DockRec → DockRec) (h : e ≠ d) : (c.modDock d f).dock e = c.dock e :=
  PerDock.get_set_ne _ _ h

/-- A change of an order record, for a slot that has one. -/
theorem modOrder_some {slot : Slot} {o : Order} (f : Order → Order) (h : c.pool.recs.get slot = some o) :
    c.modOrder slot f = { c with pool := { c.pool with recs := c.pool.recs.set slot (some (f o)) } } := by
  unfold modOrder
  rw [h]

theorem modOrder_none {slot : Slot} (f : Order → Order) (h : c.pool.recs.get slot = none) : c.modOrder slot f = c := by
  unfold modOrder
  rw [h]

end Cabin

/-! ### Updates of the part -/

namespace State

variable (s : State)

@[simp] theorem modCab_port (f : Cabin → Cabin) : (s.modCab f).port = s.port := rfl
@[simp] theorem modCab_link (f : Cabin → Cabin) : (s.modCab f).link = s.link := rfl
@[simp] theorem modCab_pad (f : Cabin → Cabin) : (s.modCab f).pad = s.pad := rfl
@[simp] theorem modCab_store (f : Cabin → Cabin) : (s.modCab f).store = s.store := rfl
@[simp] theorem modCab_latchA (f : Cabin → Cabin) : (s.modCab f).latchA = s.latchA := rfl
@[simp] theorem modCab_latchB (f : Cabin → Cabin) : (s.modCab f).latchB = s.latchB := rfl
@[simp] theorem modCab_intrusion (f : Cabin → Cabin) : (s.modCab f).intrusion = s.intrusion := rfl
@[simp] theorem modCab_pending (f : Cabin → Cabin) : (s.modCab f).pending = s.pending := rfl

@[simp] theorem cascade_port : (s.cascade).port = s.port := rfl
@[simp] theorem cascade_link : (s.cascade).link = s.link := rfl
@[simp] theorem cascade_pad : (s.cascade).pad = s.pad := rfl
@[simp] theorem cascade_store : (s.cascade).store = s.store := rfl
@[simp] theorem cascade_latchA : (s.cascade).latchA = s.latchA := rfl
@[simp] theorem cascade_latchB : (s.cascade).latchB = s.latchB := rfl
@[simp] theorem cascade_intrusion : (s.cascade).intrusion = s.intrusion := rfl
@[simp] theorem cascade_pending : (s.cascade).pending = s.pending := rfl

@[simp] theorem quietWires_cab : (s.quietWires).cab = s.cab := rfl
@[simp] theorem quietWires_pad : (s.quietWires).pad = s.pad := rfl
@[simp] theorem quietWires_store : (s.quietWires).store = s.store := rfl
@[simp] theorem quietWires_latchA : (s.quietWires).latchA = s.latchA := rfl
@[simp] theorem quietWires_latchB : (s.quietWires).latchB = s.latchB := rfl
@[simp] theorem quietWires_intrusion : (s.quietWires).intrusion = s.intrusion := rfl
@[simp] theorem quietWires_pending : (s.quietWires).pending = s.pending := rfl

@[simp] theorem reach_port (t : Nat) : (s.reach t).port = s.port := rfl
@[simp] theorem reach_link (t : Nat) : (s.reach t).link = s.link := rfl
@[simp] theorem reach_pad (t : Nat) : (s.reach t).pad = s.pad := rfl
@[simp] theorem reach_store (t : Nat) : (s.reach t).store = s.store := rfl
@[simp] theorem reach_latchA (t : Nat) : (s.reach t).latchA = s.latchA := rfl
@[simp] theorem reach_latchB (t : Nat) : (s.reach t).latchB = s.latchB := rfl
@[simp] theorem reach_intrusion (t : Nat) : (s.reach t).intrusion = s.intrusion := rfl
@[simp] theorem reach_pending (t : Nat) : (s.reach t).pending = s.pending := rfl

@[simp] theorem due_cab (i : SettingsId) : (s.due i).cab = s.cab := rfl
@[simp] theorem due_port (i : SettingsId) : (s.due i).port = s.port := rfl
@[simp] theorem due_link (i : SettingsId) : (s.due i).link = s.link := rfl
@[simp] theorem due_pad (i : SettingsId) : (s.due i).pad = s.pad := rfl
@[simp] theorem due_latchA (i : SettingsId) : (s.due i).latchA = s.latchA := rfl
@[simp] theorem due_latchB (i : SettingsId) : (s.due i).latchB = s.latchB := rfl
@[simp] theorem due_intrusion (i : SettingsId) : (s.due i).intrusion = s.intrusion := rfl
@[simp] theorem due_pending (i : SettingsId) : (s.due i).pending = s.pending := rfl

@[simp] theorem keepQuiet_cab : (s.keepQuiet).cab = s.cab := rfl
@[simp] theorem keepQuiet_link : (s.keepQuiet).link = s.link := rfl
@[simp] theorem keepQuiet_pad : (s.keepQuiet).pad = s.pad := rfl
@[simp] theorem keepQuiet_store : (s.keepQuiet).store = s.store := rfl
@[simp] theorem keepQuiet_latchA : (s.keepQuiet).latchA = s.latchA := rfl
@[simp] theorem keepQuiet_latchB : (s.keepQuiet).latchB = s.latchB := rfl
@[simp] theorem keepQuiet_intrusion : (s.keepQuiet).intrusion = s.intrusion := rfl
@[simp] theorem keepQuiet_pending : (s.keepQuiet).pending = s.pending := rfl

@[simp] theorem respond_cab (b : IdentBinding) (k : Nat) (h : ReqHdr) (a : Answer) : (s.respond b k h a).cab = s.cab := rfl
@[simp] theorem respond_link (b : IdentBinding) (k : Nat) (h : ReqHdr) (a : Answer) : (s.respond b k h a).link = s.link := rfl
@[simp] theorem respond_pad (b : IdentBinding) (k : Nat) (h : ReqHdr) (a : Answer) : (s.respond b k h a).pad = s.pad := rfl
@[simp] theorem respond_store (b : IdentBinding) (k : Nat) (h : ReqHdr) (a : Answer) : (s.respond b k h a).store = s.store := rfl
@[simp] theorem respond_latchA (b : IdentBinding) (k : Nat) (h : ReqHdr) (a : Answer) : (s.respond b k h a).latchA = s.latchA := rfl
@[simp] theorem respond_latchB (b : IdentBinding) (k : Nat) (h : ReqHdr) (a : Answer) : (s.respond b k h a).latchB = s.latchB := rfl
@[simp] theorem respond_intrusion (b : IdentBinding) (k : Nat) (h : ReqHdr) (a : Answer) : (s.respond b k h a).intrusion = s.intrusion := rfl
@[simp] theorem respond_pending (b : IdentBinding) (k : Nat) (h : ReqHdr) (a : Answer) : (s.respond b k h a).pending = s.pending := rfl

@[simp] theorem modCab_cab (f : Cabin → Cabin) : (s.modCab f).cab = f s.cab := rfl
@[simp] theorem cascade_cab : s.cascade.cab = s.cab.cascade := rfl
@[simp] theorem quietWires_queue : s.quietWires.port.queue = s.port.queue := rfl
@[simp] theorem quietWires_lost : s.quietWires.port.lost = s.port.lost := rfl
@[simp] theorem quietWires_restarted : s.quietWires.port.restarted = s.port.restarted := rfl
@[simp] theorem quietWires_speed : s.quietWires.port.speed = s.port.speed := rfl
@[simp] theorem quietWires_gear : s.quietWires.port.gear = s.port.gear := rfl
@[simp] theorem quietWires_voltage : s.quietWires.port.voltage = s.port.voltage := rfl
@[simp] theorem quietWires_fresh : s.quietWires.port.fresh = s.port.fresh := rfl
@[simp] theorem quietWires_parked : s.quietWires.port.parked = s.port.parked := rfl
@[simp] theorem quietWires_power : s.quietWires.port.power = s.port.power := rfl
@[simp] theorem quietWires_quiet : s.quietWires.port.quiet = s.port.quiet := rfl
@[simp] theorem quietWires_sleepHeld : s.quietWires.port.sleepHeld = s.port.sleepHeld := rfl
@[simp] theorem quietWires_resetting : s.quietWires.port.resetting = s.port.resetting := rfl
@[simp] theorem quietWires_link_left : s.quietWires.link.left = s.link.left := rfl
@[simp] theorem quietWires_link_due : s.quietWires.link.due = s.link.due := rfl
@[simp] theorem quietWires_link_boundary : s.quietWires.link.boundary = s.link.boundary := rfl
@[simp] theorem quietWires_link_answerBy : s.quietWires.link.answerBy = s.link.answerBy := rfl
@[simp] theorem quietWires_link_sent : s.quietWires.link.sent = s.link.sent := rfl
@[simp] theorem quietWires_port_tx : s.quietWires.port.tx = [] := rfl
@[simp] theorem quietWires_link_tx : s.quietWires.link.tx = [] := rfl

/-- With nothing to tell, a cascade changes nothing. -/
theorem cascade_of_quiet (h : s.cab.agenda = []) : s.cascade = s := by
  obtain ⟨c, _, _, _, _, _, _, _, _⟩ := s
  obtain ⟨_, _, _, _, _, _, _, _, _, _, _, a⟩ := c
  subst h
  rfl

end State

end Sys2Proof.Machine
end

