-- ==== Sys2Proof/Laws/Moves.lean ====
section
/-! SUPPORT. What the inner working of the cabin can do, said once: `Moves w g c c'` holds where `c'` comes from `c` by the
updates listed below. `w` allows docks, clock, jog and grace timer to change freely and an order to be admitted, `g` a
grant to be given. The settings, the layout contents, the effective budget and the map's cells change in no other way. -/

namespace Sys2Proof.Machine

open Sys2Proof

/-- A task that no step of the inner working tells: the Port's own. -/
def Task.inner : Task → Bool
  | .budget _ | .parkedLost | .parkedBack => false
  | _ => true

/-- An order record changed as the Order Pool changes it after admission. -/
structure Order.Follows (o o' : Order) : Prop where
  admitted : o'.admitted = o.admitted
  cancel : o.cancelTaken = true → o'.cancelTaken = true
  failure : ∀ f, o.firstFailure = some f → o'.firstFailure = some f
  superseded : ∀ d ∈ o.superseded, d ∈ o'.superseded

theorem Order.Follows.refl (o : Order) : o.Follows o := ⟨rfl, id, fun _ h => h, fun _ h => h⟩

theorem Order.Follows.trans {a b c : Order} (h : a.Follows b) (k : b.Follows c) : a.Follows c :=
  ⟨k.admitted.trans h.admitted, fun x => k.cancel (h.cancel x), fun f x => k.failure f (h.failure f x),
    fun d x => k.superseded d (h.superseded d x)⟩

theorem Order.Follows.slot {a b : Order} (h : a.Follows b) : b.slot = a.slot :=
  (show b.admitted.slot = a.admitted.slot from congrArg Order.slot h.admitted)
theorem Order.Follows.number {a b : Order} (h : a.Follows b) : b.number = a.number :=
  (show b.admitted.number = a.admitted.number from congrArg Order.number h.admitted)
theorem Order.Follows.origin {a b : Order} (h : a.Follows b) : b.origin = a.origin :=
  (show b.admitted.origin = a.admitted.origin from congrArg Order.origin h.admitted)
theorem Order.Follows.kind {a b : Order} (h : a.Follows b) : b.kind = a.kind :=
  (show b.admitted.kind = a.admitted.kind from congrArg Order.kind h.admitted)
theorem Order.Follows.layout {a b : Order} (h : a.Follows b) : b.layout = a.layout :=
  (show b.admitted.layout = a.admitted.layout from congrArg Order.layout h.admitted)
theorem Order.Follows.urgency {a b : Order} (h : a.Follows b) : b.urgency = a.urgency :=
  (show b.admitted.urgency = a.admitted.urgency from congrArg Order.urgency h.admitted)

/-- The updates the inner working is made of, and their sequences. -/
inductive Cabin.Moves : Bool → Bool → Cabin → Cabin → Prop
  | refl {w g : Bool} (c : Cabin) : Moves w g c c
  | trans {w g : Bool} {a b c : Cabin} : Moves w g a b → Moves w g b c → Moves w g a c
  /-- a notice (R172) -/
  | notify {w g : Bool} (c : Cabin) (s : Subject) (i : Option Indication) : Moves w g c (c.notify s i)
  /-- what is left to tell (log 3) -/
  | spawn {w g : Bool} (c : Cabin) (l : List Task) (h : l.all Task.inner = true) : Moves w g c (c.spawn l)
  /-- what is left to tell, taken to be told (log 3) -/
  | agenda {w g : Bool} (c : Cabin) (l : List Task) (h : l.all Task.inner = true) : Moves w g c { c with agenda := l }
  /-- motion, presence and attention of a dock -/
  | dock {w g : Bool} (c : Cabin) (d : Dock) (r : DockRec) (h : r.fixed = (c.dock d).fixed) : Moves w g c (c.setDock d r)
  /-- R26 -/
  | install {w g : Bool} (c : Cabin) (h : Holder) (S : CellSet) : Moves w g c { c with map := c.map.install h S }
  /-- R27 -/
  | claim {w g : Bool} (c : Cabin) (d : Dock) (S : CellSet) (m : CellMap) (h : c.map.claim d S = .ok m) :
    Moves w g c { c with map := m }
  /-- R28 -/
  | trim {w g : Bool} (c : Cabin) (h : Holder) (K : CellSet) : Moves w g c { c with map := c.map.trim h K }
  /-- a reservation removed (R43, R44, R46) -/
  | unreserve {w g : Bool} (c : Cabin) (d : Dock) : Moves w g c { c with map := c.map.unreserve d }
  /-- a reservation computed again (R45) -/
  | rereserve {w g : Bool} (c : Cabin) (d : Dock) (S R : CellSet) (h : c.map.reserved.get d = some S) :
    Moves w g c { c with map := { c.map with reserved := c.map.reserved.set d (some R) } }
  /-- a record validated (R64) -/
  | validate {w g : Bool} (c : Cabin) (n : Nat) (l : LayoutRec) (v : Validation) (h : c.layouts.find? n = some l) :
    Moves w g c { c with layouts := c.layouts.put { l with validation := v } }
  /-- the current-layout match (R66) -/
  | rematch {w g : Bool} (c : Cabin) (m : Option Nat) : Moves w g c { c with layouts := { c.layouts with match_ := m } }
  /-- an order record changed -/
  | order {w g : Bool} (c : Cabin) (s : Slot) (o o' : Order) (h : c.pool.recs.get s = some o) (k : o.Follows o') :
    Moves w g c { c with pool := { c.pool with recs := c.pool.recs.set s (some o') } }
  /-- an order ended (R96) -/
  | close {w g : Bool} (c : Cabin) (s : Slot) (h : s ∈ c.pool.active) :
    Moves w g c { c with pool := { c.pool with active := c.pool.active.filter (fun t => t != s), free := c.pool.free ++ [s] } }
  /-- the request set (R105) -/
  | requests {w g : Bool} (c : Cabin) (r : PerDock (Option Request)) : Moves w g c { c with arb := { c.arb with requests := r } }
  /-- head, pointers, level-0 due and start windows (R107, R110) -/
  | scan {w g : Bool} (c : Cabin) (p q : Dock) (due : Bool) (h : Option Dock) (t : PerDock Timer) :
    Moves w g c { c with arb := { c.arb with pointer1 := p, pointer0 := q, due0 := due, head := h, window := t } }
  /-- grants that leave the list (R111, R113) -/
  | drop {w g : Bool} (c : Cabin) (p : Grant → Bool) :
    Moves w g c { c with arb := { c.arb with grants := c.arb.grants.filter p } }
  /-- a grant that fits (R109) -/
  | grant {w : Bool} (c : Cabin) (x : Grant) (h : c.arb.held + x.amount ≤ c.arb.budget) :
    Moves w true c { c with arb := { c.arb with grants := c.arb.grants ++ [x] } }
  /-- the stream timers (R173) -/
  | streams {w g : Bool} (c : Cabin) (t : PerDock Timer) : Moves w g c { c with streams := t }
  /-- the end of a jog (R168) -/
  | jogEnd {w g : Bool} (c : Cabin) : Moves w g c { c with jog := none }
  /-- docks, clock, jog and grace timer, in the commands that change them -/
  | wide {g : Bool} (c : Cabin) (p : PerDock DockRec) (t : Nat) (j : Option Jog) (k : Timer) :
    Moves true g c { c with docks := p, now := t, jog := j, pool := { c.pool with grace := k } }
  /-- an admission in the slot at the head of the free list (R74, R75, R87) -/
  | admitOrder {g : Bool} (c : Cabin) (s : Slot) (rest : List Slot) (a : Admission) (h : c.pool.free = s :: rest) :
    Moves true g c { c with pool := { c.pool with
      recs := c.pool.recs.set s (some (a.order s c.nextNumber)), free := rest, active := c.pool.active ++ [s],
      next := afterNumber c.nextNumber } }

namespace Cabin.Moves

variable {w g : Bool} {a b c : Cabin}

/-- Inner working is also working that may grant, admit and change docks. -/
theorem widen (h : Moves false g a b) : Moves w g a b := by
  generalize hf : false = f at h
  induction h with
  | refl c => exact .refl c
  | trans _ _ i j => exact .trans (i hf) (j hf)
  | notify c s i => exact .notify c s i
  | spawn c l h => exact .spawn c l h
  | agenda c l h => exact .agenda c l h
  | dock c d r h => exact .dock c d r h
  | install c h S => exact .install c h S
  | claim c d S m h => exact .claim c d S m h
  | trim c h K => exact .trim c h K
  | unreserve c d => exact .unreserve c d
  | rereserve c d S R h => exact .rereserve c d S R h
  | validate c n l v h => exact .validate c n l v h
  | rematch c m => exact .rematch c m
  | order c s o o' h k => exact .order c s o o' h k
  | close c s h => exact .close c s h
  | requests c r => exact .requests c r
  | scan c p q due h t => exact .scan c p q due h t
  | drop c p => exact .drop c p
  | grant c x h => exact .grant c x h
  | streams c t => exact .streams c t
  | jogEnd c => exact .jogEnd c
  | wide => cases hf
  | admitOrder => cases hf

theorem allowGrants (h : Moves w false a b) : Moves w g a b := by
  generalize hf : false = f at h
  induction h with
  | refl c => exact .refl c
  | trans _ _ i j => exact .trans (i hf) (j hf)
  | notify c s i => exact .notify c s i
  | spawn c l h => exact .spawn c l h
  | agenda c l h => exact .agenda c l h
  | dock c d r h => exact .dock c d r h
  | install c h S => exact .install c h S
  | claim c d S m h => exact .claim c d S m h
  | trim c h K => exact .trim c h K
  | unreserve c d => exact .unreserve c d
  | rereserve c d S R h => exact .rereserve c d S R h
  | validate c n l v h => exact .validate c n l v h
  | rematch c m => exact .rematch c m
  | order c s o o' h k => exact .order c s o o' h k
  | close c s h => exact .close c s h
  | requests c r => exact .requests c r
  | scan c p q due h t => exact .scan c p q due h t
  | drop c p => exact .drop c p
  | grant => cases hf
  | streams c t => exact .streams c t
  | jogEnd c => exact .jogEnd c
  | wide c p t j k => exact .wide c p t j k
  | admitOrder c s rest a h => exact .admitOrder c s rest a h

/-- A fold of moves is moves. -/
theorem foldl {α : Type} (f : Cabin → α → Cabin) (h : ∀ c x, Moves w g c (f c x)) (l : List α) (c : Cabin) :
    Moves w g c (l.foldl f c) := by
  induction l generalizing c with
  | nil => exact .refl c
  | cons x l ih => exact (h c x).trans (ih (f c x))

/-- Either branch of a choice. -/
theorem ite {p : Prop} [Decidable p] (h : p → Moves w g a b) (k : ¬p → Moves w g a c) : Moves w g a (if p then b else c) := by
  split
  · next e => exact h e
  · next e => exact k e

/-! ### Compound updates -/

theorem modDock (c : Cabin) (d : Dock) (f : DockRec → DockRec) (h : ∀ r, (f r).fixed = r.fixed) :
    Moves w g c (c.modDock d f) := .dock c d _ (h _)

theorem mapAxes_fixed (r : DockRec) (f : Axis → Axis) (h : ∀ a, (f a).enrolled = a.enrolled) :
    DockRec.fixed { r with axes := r.axes.map f } = r.fixed := by
  unfold DockRec.fixed
  simp only [List.map_map]
  congr 1
  exact List.map_congr_left fun a _ => h a

theorem modAxis (c : Cabin) (d : Dock) (k : AxisKind) (f : Axis → Axis) (h : ∀ a, (f a).enrolled = a.enrolled) :
    Moves w g c (c.modAxis d k f) :=
  .modDock c d _ fun r => mapAxes_fixed r _ fun a => by split <;> first | exact h a | rfl

theorem modMove (c : Cabin) (d : Dock) (f : Move → Move) : Moves w g c (c.modMove d f) :=
  .modDock c d _ fun r => mapAxes_fixed r _ fun _ => rfl

theorem modOrder (c : Cabin) (s : Slot) (f : Order → Order) (h : ∀ o : Order, o.Follows (f o)) : Moves w g c (c.modOrder s f) := by
  unfold Cabin.modOrder
  split
  · next o e => exact .order c s o _ e (h o)
  · exact .refl c

/-- A step record changed in what its admission did not fix. -/
theorem modStep_follows (i : Nat) (f : Step → Step) (h : ∀ x, (f x).admitted = x.admitted) (o : Order) :
    o.Follows { o with steps := o.steps.map fun s => if s.index = i then f s else s } := by
  refine ⟨?_, id, fun _ h => h, fun _ h => h⟩
  unfold Order.admitted
  simp only [List.map_map]
  congr 1
  refine List.map_congr_left fun x _ => ?_
  simp only [Function.comp_apply]
  split
  · exact h x
  · rfl

theorem modStep (c : Cabin) (o : Order) (i : Nat) (f : Step → Step) (h : ∀ x, (f x).admitted = x.admitted) :
    Moves w g c (c.modStep o i f) := .modOrder c _ _ (modStep_follows i f h)

theorem changeStep (c : Cabin) (o : Order) (i : Nat) (f : Step → Step) (h : ∀ x, (f x).admitted = x.admitted) :
    Moves w g c (c.changeStep o i f) := (modStep c o i f h).trans (.notify _ _ _)

theorem enter (c : Cabin) (o : Order) (i : Nat) (st : StepState) : Moves w g c (c.changeStep o i fun x => x.enter st) :=
  .changeStep c o i _ fun _ => rfl

end Cabin.Moves

end Sys2Proof.Machine
end

