-- ==== Sys2Proof/Laws/OrderMoves.lean ====
section
/-! SUPPORT. The map operations, the Layout Table's validation, the Order Pool's running of the steps and the channels, as
sequences of the updates of Laws/Moves.lean. -/

namespace Sys2Proof.Machine

open Sys2Proof

namespace Cabin

variable {w g : Bool}

/-! ### Layouts (R64, R66) -/

theorem validateOne_moves (c : Cabin) (n : Nat) : Moves w g c (c.validateOne n) := by
  unfold validateOne
  split
  · exact .refl c
  · next l h =>
    dsimp only
    split
    · exact .refl c
    · exact (Moves.validate c n l _ h).trans (.notify _ _ _)

theorem rematch_moves (c : Cabin) (also : Option Dock) : Moves w g c (c.rematch also) := by
  unfold rematch
  dsimp only
  split
  · exact .refl c
  · exact (Moves.rematch c _).trans (Moves.foldl _ (fun c d => .notify c _ _) _ _)

theorem revalidate_moves (c : Cabin) (also : Option Dock) : Moves w g c (c.revalidate also) :=
  (Moves.foldl validateOne validateOne_moves _ c).trans (rematch_moves _ also)

/-! ### The map (R28, R43 to R48) -/

theorem tell_moves (c : Cabin) (b : Bool) : Moves w g c (if b then c.spawn [.retryClaims] else c) := by
  split
  · exact .spawn c _ rfl
  · exact .refl c

theorem placeMap_moves {c : Cabin} {m : CellMap} (b : Bool) (h : Moves w g c { c with map := m }) :
    Moves w g c (c.placeMap m b) := by
  unfold placeMap
  split
  · exact h.trans (.spawn _ _ rfl)
  · exact h

theorem installTrim_moves (c : Cabin) (h : Holder) (S K : CellSet) : Moves w g c (c.installTrim h S K) :=
  placeMap_moves _ ((Moves.install c h S).trans (.trim _ h K))

theorem releaseDock_moves (c : Cabin) (d : Dock) : Moves w g c (c.releaseDock d) :=
  placeMap_moves _ ((Moves.unreserve c d).trans (.trim _ _ _))

theorem placeFront_moves (c : Cabin) (l r : CellSet) : Moves w g c (c.placeFront l r) :=
  placeMap_moves _ ((((Moves.install c .frontL l).trans (.trim _ _ _)).trans (.install _ .frontR r)).trans (.trim _ _ _))

theorem settleKeeping_moves (c : Cabin) (d : Dock) : Moves w g c (c.settleKeeping d) :=
  (installTrim_moves c _ _ _).trans (revalidate_moves _ _)

theorem settle_moves (c : Cabin) (d : Dock) : Moves w g c (c.settle d) :=
  ((Moves.unreserve c d).trans (installTrim_moves _ _ _ _)).trans (revalidate_moves _ _)

theorem postureOutside_moves (c : Cabin) (d : Dock) : Moves w g c (c.postureOutside d) := by
  unfold postureOutside
  dsimp only
  split
  · next h _ => exact ((Moves.rereserve c d _ _ h).trans (installTrim_moves _ _ _ _)).trans (revalidate_moves _ _)
  · exact (installTrim_moves _ _ _ _).trans (revalidate_moves _ _)
  · exact (installTrim_moves _ _ _ _).trans (revalidate_moves _ _)

/-! ### Requests, grants, attention -/

theorem requests_head_moves (c : Cabin) (r : PerDock (Option Request)) (h : Option Dock) :
    Moves w g c { c with arb := { c.arb with requests := r, head := h } } :=
  (Moves.requests c r).trans (.scan _ _ _ _ h _)

theorem takeBack_moves (c : Cabin) (r : StepRef) (d : Dock) : Moves w g c (c.takeBack r d) := by
  unfold takeBack
  split
  · exact .refl c
  · split
    · dsimp only
      split
      · exact (requests_head_moves c _ none).trans (.spawn _ _ rfl)
      · exact .requests c _
    · exact .refl c

theorem dropGrant_moves (c : Cabin) (r : StepRef) : Moves w g c (c.dropGrant r) := .drop c _

theorem releaseGrant_moves (c : Cabin) (r : StepRef) : Moves w g c (c.releaseGrant r) := by
  unfold releaseGrant
  split
  · exact (dropGrant_moves c r).trans (.spawn _ _ rfl)
  · exact .refl c

theorem stopWindow_moves (c : Cabin) (d : Dock) : Moves w g c (c.stopWindow d) := .scan c _ _ _ _ _

theorem setAttention_moves (c : Cabin) (d : Dock) (a : Attention) : Moves w g c (c.setAttention d a) := by
  unfold setAttention
  split
  · next h =>
    refine .dock c d _ ?_
    have e : (c.dock d).state = .ready := of_decide_eq_true h
    unfold DockRec.fixed
    simp only [e, if_true]
  · exact .refl c

/-! ### Orders (R88 to R96) -/

theorem clearAttention_moves (c : Cabin) (n : Nat) : Moves w g c (c.clearAttention n) :=
  Moves.foldl _ (fun c d => setAttention_moves c d _) _ c

/-- The final state is written in the record. -/
theorem finalState_follows (o : Order) (st : OrderState) : o.Follows { o with state := st } :=
  ⟨rfl, id, fun _ h => h, fun _ h => h⟩

theorem closeOrder_moves (c : Cabin) (slot : Slot) : Moves w g c (c.closeOrder slot) := by
  unfold closeOrder
  split
  · exact .refl c
  · next o h =>
    split
    · next k =>
      have hs : slot ∈ c.pool.active := by
        have k := (Bool.and_eq_true _ _ ▸ k).1
        exact List.contains_iff_mem.mp k
      have e : Moves w g c { c with pool := { c.pool with
          recs := c.pool.recs.set slot (some { o with state := o.finalState })
          active := c.pool.active.filter fun s => s != slot
          free := c.pool.free ++ [slot] } } :=
        (Moves.order c slot o _ h (finalState_follows o _)).trans (.close _ slot hs)
      refine (Moves.trans ?_ (clearAttention_moves _ _)).trans (.notify _ _ _)
      split
      · split
        · exact e.trans (.jogEnd _)
        · next j hj _ =>
          have : c.jog = some j := hj
          exact this ▸ e
      · next hj =>
        have : c.jog = none := hj
        exact this ▸ e
    · exact .refl c

theorem endClaim_moves (c : Cabin) (s : Step) : Moves w g c (c.endClaim s) :=
  .ite (fun _ => settle_moves _ _) fun _ => .refl c

theorem skipClaim_moves (c : Cabin) (o : Order) (s : Step) : Moves w g c (c.skipClaim o s) :=
  (Moves.enter c o _ _).trans (endClaim_moves _ _)

theorem skipStep_moves (c : Cabin) (o : Order) (s : Step) : Moves w g c (c.skipStep o s) :=
  (skipClaim_moves c o s).trans (takeBack_moves _ _ _)

theorem skipWaiting_moves (c : Cabin) (slot : Slot) : Moves w g c (c.skipWaiting slot) := by
  unfold skipWaiting
  split
  · exact .refl c
  · exact (Moves.foldl _ (fun c s => skipClaim_moves c _ s) _ c).trans (.foldl _ (fun c s => takeBack_moves c _ _) _ _)

theorem writeFirstFailure_moves (c : Cabin) (slot : Slot) (f : FirstFailure) :
    Moves w g c (c.writeFirstFailure slot f) := by
  unfold writeFirstFailure
  split
  · exact .refl c
  · next o h =>
    split
    · next k =>
      have k : o.firstFailure = none := Option.isNone_iff_eq_none.mp (Bool.and_eq_true _ _ ▸ k).1
      refine Moves.trans ?_ (.notify _ _ _)
      exact .order c slot o _ h ⟨rfl, id, fun x hx => absurd (k.symm.trans hx) (by simp), fun _ h => h⟩
    · exact .refl c

theorem enterFailed_moves (c : Cabin) (o : Order) (s : Step) (why : Reason) (ri : Bool) :
    Moves w g c (c.enterFailed o s why ri) := by
  unfold enterFailed
  dsimp only
  have h : Moves w g c (c.changeStep o s.index fun x => { x.enter .failed with failure := some (why, ri) }) :=
    .changeStep c o _ _ fun _ => rfl
  split
  · exact h.trans (setAttention_moves _ _ _)
  · exact h

theorem handleFailure_moves (c : Cabin) (o : Order) (s : Step) (why : Reason) (ri : Bool) :
    Moves w g c (c.handleFailure o s why ri) :=
  ((writeFirstFailure_moves c _ _).trans (skipWaiting_moves _ _)).trans (closeOrder_moves _ _)

theorem markFailed_moves (c : Cabin) (o : Order) (s : Step) (why : Reason) (ri : Bool) :
    Moves w g c (c.markFailed o s why ri) := (enterFailed_moves c o s why ri).trans (handleFailure_moves _ _ _ _ _)

theorem failWaiting_moves (c : Cabin) (o : Order) (s : Step) (why : Reason) : Moves w g c (c.failWaiting o s why) :=
  (((enterFailed_moves c o s why false).trans (endClaim_moves _ _)).trans (handleFailure_moves _ _ _ _ _)).trans
    (takeBack_moves _ _ _)

theorem noteBlocker_moves (c : Cabin) (o : Order) (s : Step) (b : Blocker) : Moves w g c (c.noteBlocker o s b) := by
  unfold noteBlocker
  dsimp only
  have h (f : Step → Step) (hf : ∀ x, (f x).admitted = x.admitted) :
      Moves w g c (if s.blocker = some b then c.modStep o s.index f else c.changeStep o s.index f) := by
    split
    · exact .modStep c o _ f hf
    · exact .changeStep c o _ f hf
  split
  · refine Moves.trans ?_ (setAttention_moves _ _ _)
    exact h _ fun _ => rfl
  · exact h _ fun _ => rfl

theorem enterPowering_moves (c : Cabin) (o : Order) (s : Step) (start : Nat) :
    Moves w g c (c.enterPowering o s start) := by
  refine Moves.trans ?_ (.spawn _ _ rfl)
  exact .changeStep _ _ _ _ fun _ => rfl

theorem attempt_moves (c : Cabin) (r : StepRef) : Moves w g c (c.attempt r) := by
  unfold attempt
  dsimp only
  repeat' split
  all_goals first
    | with_reducible exact .refl c
    | with_reducible exact failWaiting_moves _ _ _ _
    | with_reducible exact noteBlocker_moves _ _ _ _
    | with_reducible exact enterPowering_moves _ _ _ _
    | with_reducible exact (Moves.claim c _ _ _ ‹_›).trans (enterPowering_moves _ _ _ _)

theorem retryClaims_moves (c : Cabin) : Moves w g c c.retryClaims := by
  unfold retryClaims
  refine .spawn c _ ?_
  rw [List.all_eq_true]
  intro t ht
  obtain ⟨o, _, ht⟩ := List.mem_flatMap.mp ht
  obtain ⟨s, _, rfl⟩ := List.mem_map.mp ht
  rfl

theorem startChecks_moves (c : Cabin) (o : Order) (s : Step) : Moves w g c (c.startChecks o s) := by
  unfold startChecks
  split
  · exact .refl c
  · split
    · exact failWaiting_moves _ _ _ _
    · split
      · exact ((Moves.enter c o _ _).trans (.spawn _ _ rfl)).trans (closeOrder_moves _ _)
      · split
        · exact failWaiting_moves _ _ _ _
        · refine Moves.trans ?_ (.spawn _ _ rfl)
          exact .changeStep _ _ _ _ fun _ => rfl

theorem testDock_moves (c : Cabin) (d : Dock) : Moves w g c (c.testDock d) := by
  unfold testDock
  split
  · exact startChecks_moves _ _ _
  · exact .refl c

theorem makeRequest_moves (c : Cabin) (r : StepRef) : Moves w g c (c.makeRequest r) := by
  unfold makeRequest
  split
  · exact .refl c
  · split
    · exact .refl c
    · split
      · exact (Moves.requests c _).trans (.spawn _ _ rfl)
      · exact .refl c

/-! ### Channels and occupancy (R148 to R159) -/

theorem decideOccupancy_moves (c : Cabin) (d : Dock) : Moves w g c (c.decideOccupancy d) := by
  unfold decideOccupancy
  dsimp only
  split
  · exact .refl c
  · refine (Moves.trans ?_ (.notify _ _ _)).trans (.spawn _ _ rfl)
    exact .modDock _ _ _ fun _ => rfl

theorem mapChans_fixed (r : DockRec) (f : Chan → Chan) (h : ∀ x, (f x).measured = x.measured) :
    DockRec.fixed { r with chans := r.chans.map f } = r.fixed := by
  unfold DockRec.fixed
  simp only [List.map_map]
  congr 1
  exact List.map_congr_left fun x _ => h x

/-- A change of channel records, told on (R156). -/
theorem modChan_told {c : Cabin} {d : Dock} {ch : Channel} {f : Chan → Chan}
    (e : Moves w g c (c.modDock d fun r => { r with chans := r.chans.map fun y => if y.kind = ch.kind then f y else y })) :
    Moves w g c (c.modChan d ch f) := by
  unfold modChan
  split
  · exact .refl c
  · dsimp only
    generalize (c.modDock d fun r => { r with chans := r.chans.map fun y => if y.kind = ch.kind then f y else y }) = c' at e ⊢
    refine .ite (fun _ => e) fun _ => ?_
    have e' : Moves w g c (if c'.ready d = true then c'.spawn [.channelTold d ch] else c') :=
      .ite (fun _ => e.trans (.spawn _ _ rfl)) fun _ => e
    exact .ite (fun _ => e'.trans (decideOccupancy_moves _ _)) fun _ => e'

theorem modChan_moves (c : Cabin) (d : Dock) (ch : Channel) (f : Chan → Chan) (h : ∀ x, (f x).measured = x.measured) :
    Moves w g c (c.modChan d ch f) :=
  modChan_told (.modDock c d _ fun r => mapChans_fixed r _ fun x => by split <;> first | exact h x | rfl)

/-- With docks free to change, any change of a channel record. -/
theorem modChan_wide (c : Cabin) (d : Dock) (ch : Channel) (f : Chan → Chan) : Moves true g c (c.modChan d ch f) :=
  modChan_told (.wide c _ c.now c.jog c.pool.grace)

theorem takeRaws_moves (c : Cabin) (d : Dock) (raws : List Nat) : Moves true g c (c.takeRaws d raws) :=
  Moves.foldl _ (fun c ch => modChan_wide c d ch _) _ c

theorem retuneDue_moves (c : Cabin) (d : Dock) : Moves w g c (c.retuneDue d) := by
  unfold retuneDue
  split
  · exact .refl c
  · exact Moves.foldl _ (fun c ch => modChan_moves c d ch _ fun x => by split <;> rfl) _ c

end Cabin

end Sys2Proof.Machine
end

