-- ==== Sys2Proof/Laws/MotionMoves.lean ====
section
/-! SUPPORT. Moves, frames, obstructions and arbitration as sequences of the updates of Laws/Moves.lean. -/

namespace Sys2Proof.Machine

open Sys2Proof

/-! ### Positions -/

theorem Axis.place_enrolled (a : Axis) (p : Int) : (a.place p).enrolled = a.enrolled := by
  unfold Axis.place
  repeat' split
  all_goals rfl

theorem Axis.moveBy_enrolled (a : Axis) (x : Int) : (a.moveBy x).enrolled = a.enrolled := a.place_enrolled _

theorem Axis.takeDrift_enrolled (a : Axis) : a.takeDrift.enrolled = a.enrolled := a.moveBy_enrolled _

theorem Axis.learn_enrolled (a : Axis) (m : Move) : (a.learn m).enrolled = a.enrolled := by
  unfold Axis.learn
  split <;> rfl

namespace Cabin

variable {w g : Bool}

theorem notifyReference_moves (c : Cabin) (d : Dock) (k : AxisKind) (i : Indication) :
    Moves w g c (c.notifyReference d k i) := (Moves.notify c _ _).trans (.notify _ _ _)

/-- With docks free to change, any change of an axis record. -/
theorem modAxis_wide (c : Cabin) (d : Dock) (k : AxisKind) (f : Axis → Axis) : Moves true g c (c.modAxis d k f) :=
  .wide c _ c.now c.jog c.pool.grace

theorem enterReferenceFault_moves (c : Cabin) (d : Dock) (k : AxisKind) (v : Nat) :
    Moves true g c (c.enterReferenceFault d k v) := by
  refine Moves.trans ?_ (notifyReference_moves _ _ _ _)
  exact modAxis_wide _ _ _ _

theorem overrunFault_moves (c : Cabin) (d : Dock) (a : Axis) : Moves true g c (c.overrunFault d a) := by
  refine Moves.trans ?_ (enterReferenceFault_moves _ _ _ _)
  exact modAxis_wide _ _ _ _

/-! ### Moves (R121, R128, R129) -/

theorem beginMove_moves (c : Cabin) (o : Order) (s : Step) : Moves w g c (c.beginMove o s) := by
  unfold beginMove
  split
  · exact .refl c
  · next a _ =>
    dsimp only
    have h (m : Move) : Moves w g c (c.modAxis s.dock s.axis fun x => { x.takeDrift with cond := .driven, move := some m }) :=
      .modAxis _ _ _ _ fun x => x.takeDrift_enrolled
    split
    · exact (h _).trans (.spawn _ _ rfl)
    · have k (c : Cabin) (x : MotorCmd) : Moves w g c (c.modDock s.dock fun r => { r with command := x }) :=
        .modDock _ _ _ fun _ => rfl
      split
      · exact ((h _).trans (k _ _)).trans (.spawn _ _ rfl)
      · exact (h _).trans (k _ _)

theorem brake_moves (c : Cabin) (d : Dock) (x : MotorCmd) : Moves w g c (c.modDock d fun r => { r with command := x }) :=
  .modDock _ _ _ fun _ => rfl

theorem endMotion_moves (c : Cabin) (d : Dock) (keep : Bool) (f : Cabin → Order → Step → Cabin)
    (hf : ∀ c o s, Moves w g c (f c o s)) : Moves w g c (c.endMotion d keep f) := by
  unfold endMotion
  split
  · exact .refl c
  · next a m _ =>
    dsimp only
    refine ((Moves.trans ?_ (.notify _ _ _))).trans (retuneDue_moves _ _)
    have h : Moves w g c (((c.modDock d fun r => { r with command := .brake }).modAxis d a.kind fun a =>
        { a with cond := .settling, move := none }).stopWindow d) := by
      refine Moves.trans ?_ (stopWindow_moves _ _)
      exact (brake_moves c d .brake).trans (.modAxis _ _ _ _ fun _ => rfl)
    split
    · refine Moves.trans ?_ (settleKeeping_moves _ _)
      split
      · exact h.trans (hf _ _ _)
      · exact h
    · refine Moves.trans ?_ (settle_moves _ _)
      split
      · exact h.trans (hf _ _ _)
      · exact h

theorem finishMove_moves (c : Cabin) (d : Dock) : Moves w g c (c.finishMove d) := by
  unfold finishMove
  split
  · exact .refl c
  · next a m _ =>
    refine Moves.trans ?_ (.spawn _ _ rfl)
    refine Moves.trans ?_ (endMotion_moves _ _ _ _ fun c o s => (Moves.enter c o _ _).trans (closeOrder_moves _ _))
    exact .modAxis _ _ _ _ fun x => x.learn_enrolled m

theorem failMove_moves (c : Cabin) (d : Dock) (why : Reason) (ri : Bool) : Moves w g c (c.failMove d why ri) := by
  unfold failMove
  split
  · exact .refl c
  · refine Moves.trans ?_ (.spawn _ _ rfl)
    have h : Moves w g c (c.endMotion d false fun c o s => c.enterFailed o s why ri) :=
      endMotion_moves c d _ _ fun c o s => enterFailed_moves c o s why ri
    split
    · exact h.trans (handleFailure_moves _ _ _ _ _)
    · exact h

theorem endStopping_moves (c : Cabin) (d : Dock) : Moves w g c (c.endStopping d) := by
  unfold endStopping
  split
  · exact .refl c
  · split
    · exact .refl c
    · split
      · exact .refl c
      · split
        · exact finishMove_moves _ _
        · split
          · refine Moves.trans ?_ (.spawn _ _ rfl)
            exact (releaseGrant_moves c _).trans (endMotion_moves _ _ _ _ fun c o s => .enter c o _ _)
          · refine Moves.trans ?_ (.spawn _ _ rfl)
            exact endMotion_moves _ _ _ _ fun c o s => (Moves.enter c o _ _).trans (closeOrder_moves _ _)

theorem stopStep_moves (c : Cabin) (o : Order) (s : Step) (cause : StopCause) : Moves w g c (c.stopStep o s cause) := by
  unfold stopStep
  dsimp only
  have h : Moves w g c ((c.changeStep o s.index fun x =>
      { x.enter .stopping with stopCause := some cause }).stopWindow s.dock) := by
    refine Moves.trans ?_ (stopWindow_moves _ _)
    exact .changeStep _ _ _ _ fun _ => rfl
  split
  · exact h
  · split
    · exact (h.trans (brake_moves _ _ _)).trans (.spawn _ _ rfl)
    · exact h.trans (.modMove _ _ _)

theorem homed_moves (c : Cabin) (d : Dock) (k : AxisKind) : Moves true g c (c.homed d k) := by
  refine (Moves.trans ?_ (notifyReference_moves _ _ _ _)).trans (finishMove_moves _ _)
  exact modAxis_wide _ _ _ _

theorem endStop_moves (c : Cabin) (d : Dock) (a : Axis) (m : Move) : Moves true g c (c.endStop d a m) := by
  unfold endStop
  dsimp only
  have h (c : Cabin) (E : Nat) : Moves true g c (c.modAxis d a.kind fun a => { a with count := E, overrun := 0 }) :=
    modAxis_wide _ _ _ _
  refine .ite (fun _ => ?_) fun _ => .ite (fun _ => ?_) fun _ => ?_
  · exact Moves.trans (h _ _) (finishMove_moves _ _)
  · refine Moves.trans ?_ (finishMove_moves _ _)
    exact Moves.trans (h _ _) (.notify _ _ _)
  · refine Moves.trans ?_ (failMove_moves _ _ _ _)
    refine Moves.trans ?_ (enterReferenceFault_moves _ _ _ _)
    exact modAxis_wide _ _ _ _

theorem mapAxes_idle_fixed (r : DockRec) :
    DockRec.fixed { r with
      command := .brake, axes := r.axes.map fun a => { a with cond := .idle, move := none, drift := 0 } } = r.fixed :=
  Moves.mapAxes_fixed r (fun a => { a with cond := .idle, move := none, drift := 0 }) fun _ => rfl

theorem dropMoves_moves (c : Cabin) (d : Dock) : Moves w g c (c.dropMoves d) := by
  exact .modDock c d _ mapAxes_idle_fixed

/-! ### Obstructions and frames (R125, R137 to R144) -/

theorem writeObstruction_moves (c : Cabin) (o : Order) (s : Step) (r : Obstruction) :
    Moves w g c (c.writeObstruction o s r) := .modStep _ _ _ _ fun _ => rfl

theorem obstruct_moves (c : Cabin) (d : Dock) (cause : ObstCause) (ch : Option Channel) :
    Moves w g c (c.obstruct d cause ch) := by
  unfold obstruct
  split
  · exact .refl c
  · split
    · exact .refl c
    · next o s _ =>
      dsimp only
      split
      · exact (writeObstruction_moves _ _ _ _).trans (failMove_moves _ _ _ _)
      · refine Moves.trans ?_ (endStopping_moves _ _)
        exact (writeObstruction_moves _ _ _ _).trans (.modMove _ _ _)
      · refine .ite (fun _ => ?_) fun _ => ?_
        · exact (writeObstruction_moves _ _ _ _).trans (failMove_moves _ _ _ _)
        · refine Moves.trans ?_ (.enter _ _ _ _)
          refine Moves.trans ?_ (brake_moves _ _ _)
          exact (writeObstruction_moves _ _ _ _).trans (.modMove _ _ _)
      · exact .refl c

theorem reverseFrame_moves (c : Cabin) (d : Dock) (a : Axis) (m : Move) (I : Nat) (x : Int) :
    Moves w g c (c.reverseFrame d a m I x) := by
  unfold reverseFrame
  dsimp only
  refine .ite (fun _ => failMove_moves _ _ _ _) fun _ => .ite (fun _ => ?_) fun _ =>
    .ite (fun _ => failMove_moves _ _ _ _) fun _ => .modMove _ _ _
  exact (Moves.modMove _ _ _).trans (brake_moves _ _ _)

theorem judgeFrame_moves (c : Cabin) (d : Dock) (a : Axis) (m : Move) (s : Step) (I : Nat) (first : Bool) (x : Int) :
    Moves w g c (c.judgeFrame d a m s I first x) := by
  unfold judgeFrame
  dsimp only
  refine .ite (fun _ => ?_) fun _ => .ite (fun _ => ?_) fun _ => ?_
  · exact (Moves.modMove _ _ _).trans (obstruct_moves _ _ _ _)
  · exact (Moves.modMove _ _ _).trans (obstruct_moves _ _ _ _)
  · refine Moves.trans ?_ (brake_moves _ _ _)
    exact .modMove _ _ _

theorem judge_moves (c : Cabin) (d : Dock) (r : StepRef) (f : StatusFrame) (first reversing : Bool) (x : Int) :
    Moves w g c (c.judge d r f first reversing x) := by
  unfold judge
  split
  · repeat' split
    all_goals first
      | with_reducible exact .refl c
      | with_reducible exact reverseFrame_moves _ _ _ _ _ _
      | with_reducible exact judgeFrame_moves _ _ _ _ _ _ _ _
  · exact .refl c

theorem takeCounts_moves (c : Cabin) (d : Dock) (counts : List Nat) : Moves true g c (c.takeCounts d counts) := by
  unfold takeCounts
  dsimp only
  have h (f : DockRec → DockRec) : Moves true g c (c.modDock d f) := .wide c _ c.now c.jog c.pool.grace
  split
  · exact h _
  · refine Moves.trans ?_ (postureOutside_moves _ _)
    refine Moves.trans ?_ (.notify _ _ _)
    exact Moves.trans (h _) (Moves.foldl _ (fun c a => overrunFault_moves c d a) _ _)

theorem growRun_moves (c : Cabin) (d : Dock) (x : Int) : Moves w g c (c.growRun d x) := .modMove _ _ _

theorem coverBack_moves (c : Cabin) (d : Dock) (x : Int) : Moves w g c (c.coverBack d x) := by
  unfold coverBack
  repeat' split
  all_goals first
    | exact .refl c
    | exact .modStep _ _ _ _ fun _ => rfl

theorem driverFault_moves (c : Cabin) (d : Dock) (i : Nat) : Moves true g c (c.driverFault d i) := by
  unfold driverFault
  split
  · exact .refl c
  · next a _ =>
    dsimp only
    have h : Moves true g c (if a.enabled = true then
        (c.modAxis d a.kind fun a => { a with enabled := false }).notify (.posture d) else c) := by
      split
      · refine Moves.trans ?_ (.notify _ _ _)
        exact modAxis_wide _ _ _ _
      · exact .refl c
    split
    · exact h
    · split
      · exact ((h.trans (failMove_moves _ _ _ _)).trans (overrunFault_moves _ _ _)).trans (postureOutside_moves _ _)
      · exact h.trans (failMove_moves _ _ _ _)

theorem watchFrame_moves (c : Cabin) (d : Dock) (I : Nat) : Moves w g c (c.watchFrame d I) := .modMove _ _ _

theorem movingFrame_moves (c : Cabin) (d : Dock) (f : StatusFrame) (x : Int) : Moves true g c (c.movingFrame d f x) := by
  unfold movingFrame
  split
  · exact .refl c
  · split
    · exact .refl c
    · next m _ _ o s _ =>
      dsimp only
      have h : Moves true g c (if (decide (s.state = .starting) && x != 0) = true then
          (c.changeStep o s.index fun y => y.enter .running).stopWindow d else c) := by
        split
        · exact (Moves.enter _ _ _ _).trans (stopWindow_moves _ _)
        · exact .refl c
      generalize (if (decide (s.state = .starting) && x != 0) = true then
          (c.changeStep o s.index fun y => y.enter .running).stopWindow d else c) = e at h ⊢
      have timed (u : Move → Move) (t : Task) (ht : [t].all Task.inner = true) :
          Moves true g c (((e.modMove d u).watchFrame d f.current).spawn [t]) := by
        refine Moves.trans ?_ (.spawn _ _ ht)
        exact (Moves.trans h (.modMove _ _ _)).trans (watchFrame_moves _ _ _)
      have next (t : Task) (ht : [t].all Task.inner = true) : Moves true g c ((e.watchFrame d f.current).spawn [t]) :=
        (h.trans (watchFrame_moves _ _ _)).trans (.spawn _ _ ht)
      refine .ite (fun _ => ?_) fun _ => .ite (fun _ => .ite (fun _ => ?_) fun _ => .ite (fun _ => ?_) fun _ => timed _ _ rfl)
        fun _ => .ite (fun _ => .ite (fun _ => ?_) fun _ => timed _ _ rfl)
        fun _ => .ite (fun _ => timed _ _ rfl) fun _ => next _ rfl
      · refine Moves.trans ?_ (failMove_moves _ _ _ _)
        exact Moves.trans h (overrunFault_moves _ _ _)
      · exact Moves.trans h (finishMove_moves _ _)
      · refine Moves.trans ?_ (failMove_moves _ _ _ _)
        exact Moves.trans h (enterReferenceFault_moves _ _ _ _)
      · exact Moves.trans h (endStopping_moves _ _)

theorem motionFrame_moves (c : Cabin) (d : Dock) (sent : MotorCmd) (f : StatusFrame) :
    Moves true g c (c.motionFrame d sent f) := by
  unfold motionFrame
  dsimp only
  have h (x : Int) : Moves true g c (((c.takeCounts d f.counts).growRun d x).coverBack d x) :=
    ((takeCounts_moves _ _ _).trans (growRun_moves _ _ _)).trans (coverBack_moves _ _ _)
  split
  · exact (h _).trans (movingFrame_moves _ _ _ _)
  · split
    · split
      · exact (h _).trans (driverFault_moves _ _ _)
      · exact ((h _).trans (driverFault_moves _ _ _)).trans (movingFrame_moves _ _ _ _)
    · exact (h _).trans (movingFrame_moves _ _ _ _)

theorem stalled_moves (c : Cabin) (d : Dock) : Moves true g c (c.stalled d) := by
  unfold stalled
  split
  · exact .refl c
  · split
    · exact .refl c
    · dsimp only
      have h : Moves true g c (c.modMove d fun m => { m with stall := none }) := .modMove _ _ _
      split
      · split
        · exact h.trans (homed_moves _ _ _)
        · split
          · exact h.trans (endStop_moves _ _ _ _)
          · exact h.trans (obstruct_moves _ _ _ _)
      · split
        · exact h.trans (homed_moves _ _ _)
        · split
          · exact h.trans (endStop_moves _ _ _ _)
          · exact h.trans (obstruct_moves _ _ _ _)
      · split
        · exact h.trans (endStopping_moves _ _)
        · exact h.trans (obstruct_moves _ _ _ _)
      · exact h.trans (failMove_moves _ _ _ _)
      · exact h

theorem channelTold_moves (c : Cabin) (d : Dock) (ch : Channel) : Moves w g c (c.channelTold d ch) := by
  unfold channelTold
  dsimp only
  have h : Moves w g c (if ch = .cushion then c else c.spawn [.retryClaims]) := by
    split
    · exact .refl c
    · exact .spawn _ _ rfl
  split
  · split
    · exact h.trans (obstruct_moves _ _ _ _)
    · exact h
  · exact h

theorem foldAtGrant_moves (c : Cabin) (d : Dock) : Moves w g c (c.foldAtGrant d) := by
  unfold foldAtGrant
  split
  · split
    · exact obstruct_moves _ _ _ _
    · exact .refl c
  · exact .refl c

theorem occupancyTold_moves (c : Cabin) (d : Dock) : Moves w g c (c.occupancyTold d) := by
  unfold occupancyTold
  split
  · dsimp only
    have h (l : List (Order × Step)) : Moves w g c (l.foldl (fun c p => c.failWaiting p.1 p.2 .occupied) c) :=
      Moves.foldl _ (fun c p => failWaiting_moves c _ _ _) l c
    repeat' split
    all_goals first
      | with_reducible exact h _
      | with_reducible exact (h _).trans (failMove_moves _ _ _ _)
  · exact .refl c

/-! ### Arbitration (R108 to R113) -/

theorem startStream_moves (c : Cabin) (d : Dock) : Moves w g c (c.startStream d) := by
  unfold startStream
  split
  · exact .streams _ _
  · exact .refl c

theorem movePointer_grants (a : Arbiter) (d : Dock) (n : Nat) : (a.movePointer d n).grants = a.grants := by
  unfold Arbiter.movePointer
  split <;> rfl

theorem movePointer_budget (a : Arbiter) (d : Dock) (n : Nat) : (a.movePointer d n).budget = a.budget := by
  unfold Arbiter.movePointer
  split <;> rfl

theorem movePointer_held (a : Arbiter) (d : Dock) (n : Nat) : (a.movePointer d n).held = a.held := by
  unfold Arbiter.held
  rw [movePointer_grants]

theorem movePointer_moves (c : Cabin) (d : Dock) (n : Nat) : Moves w g c { c with arb := c.arb.movePointer d n } := by
  unfold Arbiter.movePointer
  split
  · exact .scan c _ d _ _ _
  · exact .scan c d _ _ _ _

/-- A grant whose amount fits is one of the updates (R109). -/
theorem grantTo_moves (c : Cabin) (d : Dock) (q : Request) (h : c.arb.held + q.amount ≤ c.arb.budget) :
    Moves w true c (c.grantTo d q) := by
  unfold grantTo
  dsimp only
  have k : Moves w true c { c with arb :=
      ({ c.arb with requests := c.arb.requests.set d none } : Arbiter).movePointer d q.level } := by
    refine Moves.trans (.requests c (c.arb.requests.set d none)) ?_
    exact movePointer_moves { c with arb := { c.arb with requests := c.arb.requests.set d none } } d q.level
  split
  · exact k
  · next o s _ =>
    split
    · exact (k.trans (failWaiting_moves _ _ _ _)).trans (.spawn _ _ rfl)
    · refine Moves.trans ?_ (beginMove_moves _ _ _)
      refine Moves.trans ?_ (.enter _ _ _ _)
      refine Moves.trans ?_ (startStream_moves _ _)
      refine k.trans ((Moves.grant _ ⟨d, q.step, q.level, q.amount⟩ ?_).trans (.scan _ _ _ _ _ _))
      show Arbiter.held (Arbiter.movePointer _ _ _) + _ ≤ (Arbiter.movePointer _ _ _).budget
      rw [movePointer_held, movePointer_budget]
      exact h

theorem chooseHead_grants (a : Arbiter) : a.chooseHead.grants = a.grants := by
  unfold Arbiter.chooseHead
  repeat' split
  all_goals rfl

theorem chooseHead_budget (a : Arbiter) : a.chooseHead.budget = a.budget := by
  unfold Arbiter.chooseHead
  repeat' split
  all_goals rfl

theorem chooseHead_held (a : Arbiter) : a.chooseHead.held = a.held := by
  unfold Arbiter.held
  rw [chooseHead_grants]

theorem chooseHead_moves (c : Cabin) : Moves w g c { c with arb := c.arb.chooseHead } := by
  unfold Arbiter.chooseHead
  repeat' split
  all_goals first
    | with_reducible exact .refl c
    | with_reducible exact .scan c _ _ _ _ _

/-- A passing entry fits (R108 step 3). -/
theorem passing_fits {a : Arbiter} {d : Dock} {q : Request} (h : a.passing = some (d, q)) :
    a.held + q.amount ≤ a.budget := by
  unfold Arbiter.passing at h
  obtain ⟨e, _, he⟩ := List.exists_of_findSome?_eq_some h
  split at he
  · split at he
    · next k => cases he; exact k.2
    · cases he
  · cases he

theorem passLoop_moves (n : Nat) (c : Cabin) : Moves w true c (passLoop n c) := by
  induction n generalizing c with
  | zero => exact .refl c
  | succ n ih =>
    unfold passLoop
    dsimp only
    have h : Moves w true c { c with arb := c.arb.chooseHead } := chooseHead_moves c
    split
    · exact h
    · split
      · exact h.trans (.scan _ _ _ _ none _)
      · split
        · next k =>
          refine (h.trans (.scan _ _ _ _ none _)).trans ((grantTo_moves _ _ _ ?_).trans (ih _))
          exact k
        · split
          · split
            · next k => exact h.trans ((grantTo_moves _ _ _ (passing_fits k)).trans (ih _))
            · exact h
          · exact h

theorem pass_moves (c : Cabin) : Moves w true c c.pass := passLoop_moves 6 c

theorem withdraw_moves (c : Cabin) (x : Grant) : Moves w g c (c.withdraw x) := by
  unfold withdraw
  dsimp only
  have h : Moves w g c (c.dropGrant x.step) := dropGrant_moves _ _
  split
  · exact h
  · have k : Moves w g c ((c.dropGrant x.step).endMotion x.dock true fun c o s =>
        c.changeStep o s.index fun y => y.enter .powering) := h.trans (endMotion_moves _ _ _ _ fun c o s => .enter c o _ _)
    split
    · exact k.trans (.requests _ _)
    · exact k.trans (.requests _ _)
    · exact h.trans (endStopping_moves _ _)
    · exact h.trans (failMove_moves _ _ _ _)
    · exact h

theorem withdrawUntilFits_moves (l : List Grant) (c : Cabin) : Moves w g c (withdrawUntilFits l c) := by
  induction l generalizing c with
  | nil => exact .refl c
  | cons x l ih =>
    unfold withdrawUntilFits
    split
    · exact .refl c
    · exact (withdraw_moves c x).trans (ih _)

/-- A change of the effective budget is that change, then withdrawals, then what follows (R104). -/
theorem changeBudget_moves (c : Cabin) (e : Nat) :
    Moves w g { c with arb := { c.arb with budget := e } } (c.changeBudget e) := by
  unfold changeBudget
  dsimp only
  split
  · next h => subst h; exact .refl _
  · split
    · exact .spawn _ _ rfl
    · split
      · exact .refl _
      · exact (withdrawUntilFits_moves _ _).trans (.spawn _ _ rfl)

end Cabin

end Sys2Proof.Machine
end

