-- ==== Sys2Proof/Laws/CabinMoves.lean ====
section
/-! SUPPORT. Admission, cancel, pause, the dock states, the exchange, and what is told inside one command, as sequences of
the updates of Laws/Moves.lean. -/

namespace Sys2Proof.Machine

open Sys2Proof

namespace Cabin

variable {w g : Bool}

/-! ### Wide updates -/

theorem docks_moves (c : Cabin) (p : PerDock DockRec) : Moves true g c { c with docks := p } := .wide c p c.now c.jog c.pool.grace

theorem modDock_moves (c : Cabin) (d : Dock) (f : DockRec → DockRec) : Moves true g c (c.modDock d f) := docks_moves c _

theorem grace_moves (c : Cabin) (t : Timer) : Moves true g c { c with pool := { c.pool with grace := t } } :=
  .wide c c.docks c.now c.jog t

theorem clock_moves (c : Cabin) (t : Nat) : Moves true g c { c with now := t } := .wide c c.docks t c.jog c.pool.grace

theorem jog_moves (c : Cabin) (j : Option Jog) : Moves true g c { c with jog := j } := .wide c c.docks c.now j c.pool.grace

/-! ### Admission, cancel, pause (R86, R87, R97 to R99, R168) -/

theorem supersedeOn_moves (c : Cabin) (d : Dock) (slot : Slot) : Moves w g c (c.supersedeOn d slot) := by
  unfold supersedeOn
  split
  · exact .refl c
  · next o _ =>
    dsimp only
    split
    · exact .refl c
    · refine Moves.trans ?_ (closeOrder_moves _ _)
      refine Moves.trans ?_ (Moves.foldl _ (fun c s => ?_) _ _)
      · refine .modOrder _ _ _ fun x => ⟨rfl, id, fun _ h => h, fun e h => ?_⟩
        dsimp only
        split
        · exact h
        · exact List.mem_append_left _ h
      · exact .ite (fun _ => skipStep_moves _ _ _) fun _ => .ite (fun _ => stopStep_moves _ _ _ _) fun _ => .refl c

theorem supersede_moves (c : Cabin) (docks : List Dock) (older : List Slot) : Moves w g c (c.supersede docks older) :=
  Moves.foldl _ (fun c d => Moves.foldl _ (fun c s => supersedeOn_moves c d s) older c) docks c

theorem testDocks_inner (l : List Dock) : (l.map Task.testDock).all Task.inner = true := by
  rw [List.all_eq_true]
  intro t ht
  obtain ⟨d, _, rfl⟩ := List.mem_map.mp ht
  rfl

theorem admitIn_moves (c : Cabin) (slot : Slot) (rest : List Slot) (a : Admission) (h : c.pool.free = slot :: rest) :
    Moves true g c (c.admitIn slot rest a) := by
  unfold admitIn
  dsimp only
  refine Moves.trans ?_ (.spawn _ _ (testDocks_inner _))
  refine Moves.trans ?_ (.notify _ _ _)
  refine Moves.trans ?_ (Moves.foldl _ (fun c d => setAttention_moves c d _) _ _)
  exact (Moves.admitOrder c slot rest a h).trans (supersede_moves _ _ _)

theorem admit_moves (c : Cabin) (a : Admission) : Moves true g c (c.admitOrder a) := by
  unfold admitOrder
  split
  · exact .refl c
  · next slot rest h => exact admitIn_moves c slot rest a h

theorem stopMoving_moves (c : Cabin) (o : Order) (cause : StopCause) : Moves w g c (c.stopMoving o cause) :=
  Moves.foldl _ (fun c s => stopStep_moves c o s cause) _ c

theorem cancelOrder_moves (c : Cabin) (slot : Slot) : Moves w g c (c.cancelOrder slot) := by
  unfold cancelOrder
  split
  · exact .refl c
  · dsimp only
    refine Moves.trans ?_ (closeOrder_moves _ _)
    refine Moves.trans ?_ (skipWaiting_moves _ _)
    refine Moves.trans ?_ (stopMoving_moves _ _ _)
    exact .modOrder _ _ _ fun x => ⟨rfl, fun _ => rfl, fun _ h => h, fun _ h => h⟩

/-- An order's state and its steps' wait start times are written. -/
theorem paused_follows (o : Order) :
    o.Follows { o with state := .paused, steps := o.steps.map fun s => { s with waitStart := none } } := by
  refine ⟨?_, id, fun _ h => h, fun _ h => h⟩
  unfold Order.admitted
  simp only [List.map_map]
  congr 1

theorem pauseOrder_moves (c : Cabin) (slot : Slot) : Moves w g c (c.pauseOrder slot) :=
  (Moves.modOrder _ _ _ paused_follows).trans (.notify _ _ _)

theorem takeBackRequests_moves (c : Cabin) (o : Order) : Moves w g c (c.takeBackRequests o) :=
  Moves.foldl _ (fun c _ => takeBack_moves c _ _) _ c

theorem parkedLost_moves (c : Cabin) : Moves true g c c.parkedLost := by
  unfold parkedLost
  dsimp only
  split
  · exact .refl c
  · refine Moves.trans ?_ (grace_moves _ _)
    refine Moves.trans ?_ (Moves.foldl _ takeBackRequests_moves _ _)
    refine Moves.trans ?_ (Moves.foldl _ (fun c (o : Order) => pauseOrder_moves c o.slot) _ _)
    exact Moves.foldl _ (fun c o => stopMoving_moves c o .pause) _ _

theorem requests_inner (l : List StepRef) : (l.map Task.request).all Task.inner = true := by
  rw [List.all_eq_true]
  intro t ht
  obtain ⟨d, _, rfl⟩ := List.mem_map.mp ht
  rfl

theorem attempts_inner (l : List StepRef) : (l.map Task.attempt).all Task.inner = true := by
  rw [List.all_eq_true]
  intro t ht
  obtain ⟨d, _, rfl⟩ := List.mem_map.mp ht
  rfl

theorem parkedBack_moves (c : Cabin) : Moves true g c c.parkedBack := by
  unfold parkedBack
  dsimp only
  refine Moves.trans ?_ (.spawn _ _ ?_)
  · refine Moves.trans ?_ (grace_moves _ _)
    refine Moves.foldl _ (fun c o => ?_) _ c
    refine Moves.trans ?_ (.notify _ _ _)
    exact .modOrder _ _ _ fun x => finalState_follows x _
  · rw [List.all_append, List.all_append, requests_inner, attempts_inner, testDocks_inner]
    rfl

theorem graceOrder_moves (c : Cabin) (o : Order) : Moves w g c (c.graceOrder o) := by
  unfold graceOrder
  dsimp only
  split
  · exact (skipWaiting_moves _ _).trans (closeOrder_moves _ _)
  · split
    · exact failWaiting_moves _ _ _ _
    · exact writeFirstFailure_moves _ _ _
    · exact .refl c

theorem graceExpired_moves (c : Cabin) : Moves true g c c.graceExpired :=
  (grace_moves c none).trans (Moves.foldl graceOrder graceOrder_moves _ _)

theorem endJog_moves (c : Cabin) : Moves w g c c.endJog := by
  unfold endJog
  split
  · exact .refl c
  · dsimp only
    split
    · exact .jogEnd c
    · refine Moves.trans ?_ (closeOrder_moves _ _)
      refine (Moves.jogEnd c).trans (Moves.foldl _ (fun c s => ?_) _ _)
      exact .ite (fun _ => skipStep_moves _ _ _) fun _ => .ite (fun _ => stopStep_moves _ _ _ _) fun _ =>
        .ite (fun _ => .modStep _ _ _ _ fun _ => rfl) fun _ => .refl c

theorem blockExpired_moves (c : Cabin) (o : Order) (s : Step) : Moves w g c (c.blockExpired o s) := by
  unfold blockExpired
  split
  · split
    · exact failWaiting_moves _ _ _ _
    · exact .refl c
  · exact .refl c

theorem expireWaits_moves (c : Cabin) : Moves w g c c.expireWaits := by
  refine Moves.foldl _ (fun c r => ?_) _ c
  split
  · split
    · exact blockExpired_moves _ _ _
    · exact .refl c
  · exact .refl c

theorem modeWritten_moves (c : Cabin) (before : Bool) : Moves w g c (c.modeWritten before) := by
  unfold modeWritten
  split
  · exact .refl c
  · exact .streams _ _

/-! ### What is told inside a command -/

theorem failStep_moves (c : Cabin) (r : StepRef) (why : Reason) : Moves w g c (c.failStep r why) := by
  unfold failStep
  split
  · split
    · exact failWaiting_moves _ _ _ _
    · exact .refl c
  · exact .refl c

theorem arriveAtOnce_moves (c : Cabin) (d : Dock) : Moves w g c (c.arriveAtOnce d) := by
  unfold arriveAtOnce
  split
  · split
    · exact finishMove_moves _ _
    · exact .refl c
  · exact .refl c

/-- A task of the inner working is a sequence of updates. -/
theorem runTask_moves (t : Task) (c : Cabin) (h : t.inner = true) : Moves w true c (runTask t c) := by
  cases t with
  | retryClaims => exact retryClaims_moves c
  | attempt r => exact attempt_moves c r
  | testDock d => exact testDock_moves c d
  | request r => exact makeRequest_moves c r
  | pass => exact pass_moves c
  | release r => exact releaseGrant_moves c r
  | arriveAtOnce d => exact arriveAtOnce_moves c d
  | foldAtGrant d => exact foldAtGrant_moves c d
  | endStopping d => exact endStopping_moves c d
  | occupancyTold d => exact occupancyTold_moves c d
  | channelTold d ch => exact channelTold_moves c d ch
  | judge d r f first reversing x => exact judge_moves c d r f first reversing x
  | budget e => cases h
  | parkedLost => cases h
  | parkedBack => cases h

/-- Inner working tells inner tasks only. -/
theorem Moves.agenda_inner {a b : Cabin} (h : Moves w g a b) (k : a.agenda.all Task.inner = true) :
    b.agenda.all Task.inner = true := by
  induction h with
  | trans _ _ i j => exact j (i k)
  | spawn c l h => rw [spawn_agenda, List.all_append, k, h]; rfl
  | agenda c l h => exact h
  | _ => exact k

/-- Inner tasks run in order, with all they tell, are a sequence of updates (log 3). -/
theorem drain_moves (n : Nat) (l : List Task) (c : Cabin) (h : l.all Task.inner = true)
    (k : c.agenda.all Task.inner = true) : Moves w true c (drain n l c) := by
  induction n generalizing l c with
  | zero =>
    refine .agenda c _ ?_
    rw [List.all_append, h, k]
    rfl
  | succ n ih =>
    cases l with
    | nil => exact .refl c
    | cons t l =>
      rw [List.all_cons, Bool.and_eq_true] at h
      have e : Moves w true c (runTask t { c with agenda := [] }) :=
        (Moves.agenda c [] rfl).trans (runTask_moves t _ h.1)
      have i : (runTask t { c with agenda := [] }).agenda.all Task.inner = true := e.agenda_inner k
      refine (e.trans (.agenda _ [] rfl)).trans (ih _ _ ?_ rfl)
      rw [List.all_append, i, h.2]
      rfl

/-- A cascade of inner tasks is a sequence of updates (log 3). -/
theorem cascade_moves (c : Cabin) (h : c.agenda.all Task.inner = true) : Moves w true c c.cascade :=
  (Moves.agenda c [] rfl).trans (drain_moves _ _ _ h rfl)

/-! ### Leaving READY and the dock states (R1 to R11, R22) -/

theorem dropClaims_moves (c : Cabin) (d : Dock) : Moves w g c (c.dropClaims d) := by
  refine (Moves.unreserve c d).trans (Moves.foldl _ (fun c o => ?_) _ _)
  refine .modOrder _ _ _ fun x => ⟨?_, id, fun _ h => h, fun _ h => h⟩
  unfold Order.admitted
  simp only [List.map_map]
  congr 1
  refine List.map_congr_left fun s _ => ?_
  simp only [Function.comp_apply]
  split <;> rfl

theorem failLeaving_moves (c : Cabin) (d : Dock) (why : Reason) (o : Order) : Moves w g c (c.failLeaving d why o) := by
  unfold failLeaving
  split
  · exact (markFailed_moves _ _ _ _ _).trans (takeBack_moves _ _ _)
  · exact .refl c

theorem dropDockGrant_moves (c : Cabin) (d : Dock) : Moves w g c (c.dropDockGrant d) := by
  unfold dropDockGrant
  split
  · exact (Moves.drop c _).trans (.spawn _ _ rfl)
  · exact .refl c

theorem leaveReady_moves (c : Cabin) (d : Dock) (st : DockState) (why : Reason) :
    Moves true g c (c.leaveReady d st why) := by
  unfold leaveReady
  dsimp only
  refine Moves.trans ?_ (revalidate_moves _ _)
  refine Moves.trans ?_ (.notify _ _ _)
  refine Moves.trans ?_ (decideOccupancy_moves _ _)
  refine Moves.trans ?_ (dropDockGrant_moves _ _)
  refine Moves.trans ?_ (Moves.foldl _ (fun c o => failLeaving_moves c d why o) _ _)
  refine Moves.trans ?_ (dropClaims_moves _ _)
  refine Moves.trans ?_ (stopWindow_moves _ _)
  exact (modDock_moves c d _).trans (dropMoves_moves _ _)

theorem enterSeating_moves (c : Cabin) (d : Dock) (o : SeatOrigin) : Moves true g c (c.enterSeating d o) := by
  refine Moves.trans ?_ (.notify _ _ _)
  exact (modDock_moves c d _).trans (installTrim_moves _ _ _ _)

theorem enterVacating_moves (c : Cabin) (d : Dock) : Moves true g c (c.enterVacating d) := by
  unfold enterVacating
  refine Moves.trans (Moves.trans (.notify c (.dock d) none) ?_) (modDock_moves _ d _)
  exact .ite (fun _ => leaveReady_moves _ _ _ _) fun _ => .refl _

theorem enterEmpty_moves (c : Cabin) (d : Dock) : Moves true g c (c.enterEmpty d) := by
  refine Moves.trans ?_ (.notify _ _ _)
  exact (modDock_moves c d _).trans (releaseDock_moves _ _)

theorem enterEnrolling_moves (c : Cabin) (d : Dock) : Moves true g c (c.enterEnrolling d) := by
  refine Moves.trans ?_ (.notify _ _ _)
  exact (modDock_moves c d _).trans (installTrim_moves _ _ _ _)

theorem settled_moves (c : Cabin) (d : Dock) : Moves true g c (c.settled d) := by
  unfold settled powerUp
  exact (enterEnrolling_moves c d).trans (modDock_moves _ _ _)

theorem enterFaulted_moves (c : Cabin) (d : Dock) (why : DockFault) : Moves true g c (c.enterFaulted d why) := by
  refine Moves.trans ?_ (.notify _ _ _)
  exact modDock_moves c d _

theorem silenceExpired_moves (c : Cabin) (d : Dock) : Moves true g c (c.silenceExpired d) := by
  unfold silenceExpired
  dsimp only
  split
  · exact (enterFaulted_moves _ _ _).trans (installTrim_moves _ _ _ _)
  · exact enterFaulted_moves _ _ _

theorem enterSilent_moves (c : Cabin) (d : Dock) : Moves true g c (c.enterSilent d) := by
  unfold enterSilent
  dsimp only
  refine Moves.trans (Moves.trans (Moves.trans ?_ (modDock_moves _ d _)) (.notify _ _ _)) (leaveReady_moves _ _ _ _)
  split
  · exact .install _ _ _
  · exact .refl c

theorem latchOpened_moves (c : Cabin) (d : Dock) : Moves true g c (c.latchOpened d) := by
  unfold latchOpened
  split
  · exact .refl c
  · exact .refl c
  · exact enterVacating_moves _ _
  · exact enterEmpty_moves _ _
  · exact enterVacating_moves _ _

theorem latchClosed_moves (c : Cabin) (d : Dock) : Moves true g c (c.latchClosed d) := by
  unfold latchClosed
  split
  · exact enterSeating_moves _ _ _
  · exact enterSeating_moves _ _ _
  · exact .refl c

theorem pollMissed_moves (c : Cabin) (d : Dock) : Moves true g c (c.pollMissed d) := by
  unfold pollMissed
  split
  · dsimp only
    split
    · exact (modDock_moves _ _ _).trans (enterSilent_moves _ _)
    · exact modDock_moves _ _ _
  · exact .refl c

theorem statusFrame_moves (c : Cabin) (d : Dock) (sent : MotorCmd) (f : StatusFrame) :
    Moves true g c (c.statusFrame d sent f) := by
  unfold statusFrame
  dsimp only
  refine Moves.trans ?_ (motionFrame_moves _ _ _ _)
  refine Moves.trans ?_ (takeRaws_moves _ _ _)
  refine .ite (fun _ => ?_) fun _ => modDock_moves _ _ _
  refine Moves.trans ?_ (decideOccupancy_moves _ _)
  exact (modDock_moves _ _ _).trans (.notify _ _ _)

/-! ### The exchange (R16 to R20) -/

theorem failExchange_moves (c : Cabin) (d : Dock) (why : DockFault) (sent : Bool) :
    Moves true g c (c.failExchange d why sent) := by
  unfold failExchange
  exact (enterFaulted_moves c d why).trans (modDock_moves _ _ _)

theorem accepted_moves (c : Cabin) (d : Dock) (i : Identity) (pages : List AxisPage) (e : GeomEntry) :
    Moves true g c (c.accepted d i pages e) := by
  unfold accepted
  dsimp only
  refine Moves.trans ?_ (revalidate_moves _ _)
  refine Moves.trans ?_ (.notify _ _ _)
  refine Moves.trans ?_ (.notify _ _ _)
  refine Moves.trans ?_ (decideOccupancy_moves _ _)
  refine Moves.trans ?_ (Moves.foldl _ (fun c a => .notify c _ _) _ _)
  exact (modDock_moves _ _ _).trans (installTrim_moves _ _ _ _)

theorem storePage_moves (c : Cabin) (d : Dock) (f : Exchange → Exchange) : Moves true g c (c.storePage d f) :=
  modDock_moves _ _ _

theorem takeBase_moves (c : Cabin) (d : Dock) (i : Identity) (more : Bool) : Moves true g c (c.takeBase d i more) :=
  .ite (fun _ => (storePage_moves _ _ _).trans (failExchange_moves _ _ _ _)) fun _ =>
    .ite (fun _ => storePage_moves _ _ _) fun _ => failExchange_moves _ _ _ _

theorem takeAxis_moves (c : Cabin) (d : Dock) (x : Exchange) (p : AxisPage) (more : Bool) :
    Moves true g c (c.takeAxis d x p more) := by
  unfold takeAxis
  split
  · exact .refl c
  · dsimp only
    refine .ite (fun _ => failExchange_moves _ _ _ _) fun _ => .ite (fun _ => storePage_moves _ _ _) fun _ => ?_
    split
    · exact storePage_moves _ _ _
    · split
      · exact (storePage_moves _ _ _).trans (failExchange_moves _ _ _ _)
      · exact (storePage_moves _ _ _).trans (modDock_moves _ _ _)

theorem takePage_moves (c : Cabin) (d : Dock) (page : Option NodePage) : Moves true g c (c.takePage d page) := by
  unfold takePage
  split
  · exact .refl c
  · exact failExchange_moves _ _ _ _
  · refine .ite (fun _ => failExchange_moves _ _ _ _) fun _ => ?_
    split
    · exact takeBase_moves _ _ _ _
    · exact takeAxis_moves _ _ _ _ _
    · split
      · exact accepted_moves _ _ _ _ _
      · exact failExchange_moves _ _ _ _
    · exact failExchange_moves _ _ _ _

theorem reseedChan_moves (c : Cabin) (d : Dock) (ch : Channel) : Moves w g c (c.reseedChan d ch) := by
  refine modChan_moves c d ch _ fun x => ?_
  dsimp only
  repeat' split
  all_goals rfl

end Cabin

end Sys2Proof.Machine
end

