-- ==== Sys2Proof/Laws/Cells.lean ====
section
/-! SUPPORT. Cells, cell sets and the holders of cells: membership in each built set, and the map after each cell's holder
is set. -/

namespace Sys2Proof.Machine

open Sys2Proof

/-! ### Cell order -/

theorem Cell.index_lt (x : Cell) : x.index < 288 := by
  obtain ⟨l, c, t⟩ := x
  have hc := c.isLt
  have ht := t.isLt
  unfold Cell.index
  cases l <;> simp only [Lane.num] <;> omega

theorem Cell.all_length : Cell.all.length = 288 := by decide +kernel

/-- The cell at a cell's index is that cell (R49). -/
theorem Cell.all_index (x : Cell) : Cell.all[x.index]? = some x := by
  have h : ∀ (c : Fin 16) (t : Fin 6), Cell.all[(⟨.left, c, t⟩ : Cell).index]? = some ⟨.left, c, t⟩ ∧
      Cell.all[(⟨.centre, c, t⟩ : Cell).index]? = some ⟨.centre, c, t⟩ ∧
      Cell.all[(⟨.right, c, t⟩ : Cell).index]? = some ⟨.right, c, t⟩ := by decide +kernel
  obtain ⟨l, c, t⟩ := x
  cases l
  · exact (h c t).1
  · exact (h c t).2.1
  · exact (h c t).2.2

theorem Cell.mem_all (x : Cell) : x ∈ Cell.all := List.mem_of_getElem? (Cell.all_index x)

theorem Cell.index_inj {x y : Cell} (h : x.index = y.index) : x = y := by
  have := Cell.all_index x
  rw [h, Cell.all_index y] at this
  exact (Option.some.inj this).symm

/-! ### Sets -/

namespace CellSet

@[simp] theorem mem_empty (x : Cell) : empty.mem x = false := by
  unfold mem empty
  simp

@[simp] theorem mem_union (s t : CellSet) (x : Cell) : (s.union t).mem x = (s.mem x || t.mem x) := by
  unfold mem union
  simp

@[simp] theorem mem_inter (s t : CellSet) (x : Cell) : (s.inter t).mem x = (s.mem x && t.mem x) := by
  unfold mem inter
  simp

@[simp] theorem mem_diff (s t : CellSet) (x : Cell) : (s.diff t).mem x = (s.mem x && !t.mem x) := by
  unfold mem diff
  have h := x.index_lt
  simp [h]

theorem marks_testBit (l : List Bool) (i : Nat) : (marks l).testBit i = l.getD i false := by
  induction l generalizing i with
  | nil => simp [marks]
  | cons b l ih =>
    cases i with
    | zero => cases b <;> simp [marks, Nat.testBit_zero]
    | succ i =>
      have e : marks (b :: l) / 2 = marks l := by
        cases b <;> simp only [marks, Bool.toNat_false, Bool.toNat_true] <;> omega
      rw [Nat.testBit_succ, e, ih]
      rfl

@[simp] theorem mem_ofPred (p : Cell → Bool) (x : Cell) : (ofPred p).mem x = p x := by
  unfold mem ofPred ofMarks
  rw [BitVec.getLsbD_ofNat, marks_testBit, List.getD_eq_getElem?_getD, List.getElem?_map, Cell.all_index]
  exact (congrArg (· && _) (decide_eq_true x.index_lt)).trans (Bool.true_and _)

/-- Sets with the same cells are the same set. -/
theorem ext_mem {s t : CellSet} (h : ∀ x, s.mem x = t.mem x) : s = t := by
  obtain ⟨a⟩ := s
  obtain ⟨b⟩ := t
  congr 1
  refine BitVec.eq_of_getLsbD_eq fun i hi => ?_
  have hl : i < Cell.all.length := by rw [Cell.all_length]; exact hi
  have e : (Cell.all[i]'hl).index = i := by
    have : ∀ j : Fin 288, (Cell.all[j.val]?.map Cell.index) = some j.val := by decide +kernel
    have := this ⟨i, hi⟩
    rw [List.getElem?_eq_getElem hl] at this
    exact Option.some.inj this
  have := h (Cell.all[i]'hl)
  unfold mem at this
  rwa [e] at this

theorem isEmpty_iff (s : CellSet) : s.isEmpty = true ↔ ∀ x, s.mem x = false := by
  constructor
  · intro h x
    have e : s = empty := congrArg CellSet.mk (eq_of_beq h)
    rw [e, mem_empty]
  · intro h
    have : s = empty := ext_mem fun x => by rw [h x, mem_empty]
    rw [this]
    exact beq_self_eq_true _

end CellSet

/-! ### Holders -/

namespace CellMap

theorem zipCells_length (f : Cell → Option Holder → Option Holder) (l : List Cell) (m : List (Option Holder)) :
    (zipCells f l m).length = l.length := by
  induction l generalizing m with
  | nil => rfl
  | cons x l ih => cases m <;> simp only [zipCells, List.length_cons, ih]

theorem zipCells_getElem? (f : Cell → Option Holder → Option Holder) (l : List Cell) (m : List (Option Holder)) (i : Nat) :
    (zipCells f l m)[i]? = l[i]?.map fun x => f x (m.getD i none) := by
  induction l generalizing m i with
  | nil => simp [zipCells]
  | cons x l ih =>
    cases m with
    | nil =>
      cases i with
      | zero => rfl
      | succ i => simpa [zipCells] using ih [] i
    | cons h m =>
      cases i with
      | zero => rfl
      | succ i => simpa [zipCells] using ih m i

/-- The holder of each cell after every cell's holder is set. -/
@[simp] theorem holderOf_rehold (m : CellMap) (f : Cell → Option Holder → Option Holder) (x : Cell) :
    (m.rehold f).holderOf x = f x (m.holderOf x) := by
  unfold holderOf rehold
  rw [List.getD_eq_getElem?_getD, zipCells_getElem?, Cell.all_index]
  rfl

theorem rehold_length (m : CellMap) (f : Cell → Option Holder → Option Holder) : (m.rehold f).cells.length = 288 :=
  (zipCells_length _ _ _).trans Cell.all_length

@[simp] theorem rehold_listed (m : CellMap) (f : Cell → Option Holder → Option Holder) : (m.rehold f).listed = m.listed := rfl
@[simp] theorem rehold_reserved (m : CellMap) (f : Cell → Option Holder → Option Holder) :
    (m.rehold f).reserved = m.reserved := rfl

@[simp] theorem mem_heldBy (m : CellMap) (h : Holder) (x : Cell) : (m.heldBy h).mem x = (m.holderOf x == some h) :=
  CellSet.mem_ofPred _ x

@[simp] theorem mem_heldByOthers (m : CellMap) (h : Holder) (x : Cell) :
    (m.heldByOthers h).mem x = ((m.holderOf x).isSome && m.holderOf x != some h) := CellSet.mem_ofPred _ x

end CellMap

end Sys2Proof.Machine
end

