-- ==== Sys2Proof/Laws/Channels.lean ====
section
/-! SUPPORT. Channel records: what an answered frame leaves of one (R149 to R155), and the channels of a dock after a change of one
(R156). -/

namespace Sys2Proof.Machine

open Sys2Proof

/-! ### One channel -/

theorem Chan.beginTuning_kind (x : Chan) : x.beginTuning.kind = x.kind := rfl

/-- An answered frame leaves a channel's kind. -/
theorem Chan.take_kind (x : Chan) (l : Limits) (now : Nat) (hold touched : Bool) (raw : Nat) :
    (x.take l now hold touched raw).kind = x.kind := by
  unfold Chan.take
  dsimp only
  split
  · unfold Chan.track; dsimp only; repeat' split
    all_goals rfl
  · unfold Chan.track; dsimp only; repeat' split
    all_goals rfl
  · unfold Chan.track; dsimp only; repeat' split
    all_goals rfl
  · unfold Chan.tune; dsimp only; repeat' split
    all_goals rfl
  · unfold Chan.recover; dsimp only; repeat' split
    all_goals rfl

/-- In NONE, PROX and TOUCH a channel takes a frame by R149. -/
theorem Chan.take_tracking {x : Chan} (h : x.state.tracking = true) (l : Limits) (now : Nat) (hold touched : Bool) (raw : Nat) :
    x.take l now hold touched raw = { x with raw := some raw }.track l hold raw := by
  unfold Chan.take
  cases hs : x.state <;> simp_all [ChanState.tracking]

/-- What a frame in NONE, PROX or TOUCH leaves (R149): FAULT at a saturation, TUNING at a band exit that is not held off, and else the
filtered count, the reference, and the state judged from their difference. -/
theorem Chan.track_cases (x : Chan) (l : Limits) (hold : Bool) (raw : Nat) :
    let F := filterCount (x.filtered.getD raw) raw l.presenceFilter
    let L := if x.state = .none then trackReference (x.ref16.getD (16 * raw)) F else x.ref16.getD (16 * raw)
    let y : Chan := { x with filtered := some F, ref16 := some L }
    let exits : Prop := x.state = .none ∧ l.inBand (L / 16) = false
    raw = 4095 ∧ x.track l hold raw = x.saturate ∨
      raw ≠ 4095 ∧ exits ∧ hold = false ∧ x.track l hold raw = y.beginTuning ∨
      raw ≠ 4095 ∧ (¬ exits ∨ hold = true) ∧ ∃ due, (due = true ↔ x.retune = true ∨ exits) ∧
        x.track l hold raw = { y with delta := L / 16 - F, retune := due }.judge (l.thresholds x.kind) := by
  intro F L y exits
  by_cases hr : raw = 4095
  · exact .inl ⟨hr, if_pos hr⟩
  have e : x.track l hold raw =
      if (decide (x.state = ChanState.none) && !l.inBand (L / 16)) && !hold then y.beginTuning
      else { y with delta := L / 16 - F, retune := x.retune || (decide (x.state = ChanState.none) && !l.inBand (L / 16)) }.judge
        (l.thresholds x.kind) := if_neg hr
  have hx : (decide (x.state = ChanState.none) && !l.inBand (L / 16)) = true ↔ exits := by simp [exits]
  refine .inr ?_
  by_cases h : exits ∧ hold = false
  · refine .inl ⟨hr, h.1, h.2, e.trans (if_pos ?_)⟩
    rw [hx.2 h.1, h.2]
    rfl
  · refine .inr ⟨hr, ?_, _, ?_, e.trans (if_neg ?_)⟩
    · by_cases hh : hold = true
      · exact .inr hh
      · exact .inl fun he => h ⟨he, by simpa using hh⟩
    · rw [Bool.or_eq_true, hx]
    · rw [Bool.and_eq_true, hx]
      exact fun he => h ⟨he.1, by simpa using he.2⟩

/-! ### The channels of a dock -/

namespace Cabin

variable (c : Cabin)

@[simp] theorem decideOccupancy_chans (d e : Dock) : ((c.decideOccupancy d).dock e).chans = (c.dock e).chans := by
  unfold decideOccupancy
  dsimp only
  split
  · rfl
  · by_cases he : e = d
    · subst he; simp
    · simp [dock_modDock_ne _ _ he]

@[simp] theorem decideOccupancy_set (d : Dock) : (c.decideOccupancy d).set = c.set := by
  unfold decideOccupancy; dsimp only; split <;> rfl

@[simp] theorem decideOccupancy_now (d : Dock) : (c.decideOccupancy d).now = c.now := by
  unfold decideOccupancy; dsimp only; split <;> rfl

@[simp] theorem modChan_set (d : Dock) (ch : Channel) (f : Chan → Chan) : (c.modChan d ch f).set = c.set := by
  unfold modChan; split
  · rfl
  · dsimp only; repeat' split
    all_goals first | rfl | exact decideOccupancy_set _ _

@[simp] theorem modChan_now (d : Dock) (ch : Channel) (f : Chan → Chan) : (c.modChan d ch f).now = c.now := by
  unfold modChan; split
  · rfl
  · dsimp only; repeat' split
    all_goals first | rfl | exact decideOccupancy_now _ _

/-- The channels of a dock after a change of one: that one changed and the others as they were. -/
theorem modChan_chan? (d : Dock) (ch e : Channel) (f : Chan → Chan) (hf : ∀ x, (f x).kind = x.kind) :
    ((c.modChan d ch f).dock d).chan? e =
      if e = ch then ((c.dock d).chan? e).map f else (c.dock d).chan? e := by
  have hk : ∀ a b : Channel, a.kind = b.kind ↔ a = b := fun a b => by cases a <;> cases b <;> decide
  have hm : ∀ l : List Chan, (l.map fun y => if y.kind = ch.kind then f y else y).find? (fun x => x.kind = e.kind) =
      if e = ch then (l.find? fun x => x.kind = e.kind).map f else l.find? fun x => x.kind = e.kind := by
    intro l
    induction l with
    | nil => simp
    | cons y l ih =>
      rw [List.map_cons, List.find?_cons, List.find?_cons]
      have hy : (if y.kind = ch.kind then f y else y).kind = y.kind := by split <;> simp [hf]
      rw [hy]
      by_cases he : y.kind = e.kind
      · simp only [he, decide_true, hk]
        split <;> simp
      · simp only [he, decide_false]
        exact ih
  have hd : ∀ c' : Cabin, (c'.dock d).chans = (c.dock d).chans.map (fun y => if y.kind = ch.kind then f y else y) →
      (c'.dock d).chan? e = if e = ch then ((c.dock d).chan? e).map f else (c.dock d).chan? e := fun c' h => by
    unfold DockRec.chan?
    rw [h, hm]
  unfold modChan
  split
  · rename_i hn
    by_cases he : e = ch
    · subst he; simp [hn]
    · simp [he]
  · dsimp only
    apply hd
    repeat' split
    all_goals simp

end Cabin

end Sys2Proof.Machine
end

