-- ==== Sys2Proof/Laws/Footprints.lean ====
section
/-! SUPPORT. Footprints: which cells a unit covers at a pose, in the words of R36 to R40, and where validation places it and what the
match compares (R61, R62, R65). -/

namespace Sys2Proof.Machine

open Sys2Proof

/-! ### Sets of cells -/

@[simp] theorem CellSet.mem_ofList (l : List Cell) (x : Cell) : (CellSet.ofList l).mem x = true ↔ x ∈ l := by
  have h : ∀ (l : List Cell) (s : CellSet), (l.foldl CellSet.insert s).mem x = true ↔ s.mem x = true ∨ x ∈ l := by
    intro l
    induction l with
    | nil => simp
    | cons c l ih =>
      intro s
      rw [List.foldl_cons, ih]
      have e : (s.insert c).mem x = true ↔ s.mem x = true ∨ x = c := by
        unfold CellSet.insert CellSet.mem
        have hx := x.index_lt
        by_cases hc : x = c
        · subst hc; simp [hx]
        · have : x.index ≠ c.index := fun h => hc (Cell.index_inj h)
          simp [hx, hc]
          omega
      rw [e, List.mem_cons, or_assoc]
  simpa [CellSet.ofList] using h l .empty

/-! ### Stations and shifts (R35, R36) -/

theorem mem_shiftSet (lo hi j : Nat) : j ∈ shiftSet lo hi ↔ lo / 100 ≤ j ∧ j ≤ (hi + 99) / 100 := by
  simp [shiftSet, ceilDiv, and_comm]

theorem mem_between (a b j : Nat) : j ∈ between a b ↔ min a b ≤ j ∧ j ≤ max a b := by
  simp [between, and_comm]

/-- A later position lies in no earlier station. -/
theorem stationOf_mono (t : List Station) (T : Nat) {p q : Nat} (h : p ≤ q) : stationOf t T p ≤ stationOf t T q := by
  have hp : permille p T ≤ permille q T := Nat.div_le_div_right (Nat.mul_le_mul_right _ h)
  have : ∀ l : List Station, (l.takeWhile fun x => x.boundary ≤ permille p T).length ≤
      (l.takeWhile fun x => x.boundary ≤ permille q T).length := by
    intro l
    induction l with
    | nil => simp
    | cons x l ih =>
      simp only [List.takeWhile_cons]
      by_cases hx : x.boundary ≤ permille p T
      · have := hx.trans hp
        simpa [hx, this] using ih
      · simp [hx]
  exact Nat.sub_le_sub_right (this t) 1

theorem Axis.mem_fullRange (a : Axis) (e : GeomEntry) (j : Nat) : j ∈ a.fullRange e ↔ a.Anywhere e j := by
  unfold Axis.fullRange Axis.Anywhere Axis.travelMm millimetres
  split <;> simp [mem_shiftSet]

/-- Where an axis may stand (R39) is what the footprint arithmetic takes. -/
theorem Axis.mem_rangeOf (a : Axis) (e : GeomEntry) (p q j : Nat) : j ∈ a.rangeOf e p q ↔ a.MayStand e p q j := by
  unfold Axis.rangeOf Axis.MayStand
  have hc : (a.ref.conservative && a.enabled) = true ↔ ¬ (a.ref = .referenced ∨ a.enabled = false) := by
    cases a.ref <;> cases a.enabled <;> simp [RefState.conservative]
  by_cases h : (a.ref.conservative && a.enabled) = true
  · rw [if_pos h, if_neg (hc.1 h), Axis.mem_fullRange]
  · rw [if_neg h, if_pos (not_not.1 fun n => h (hc.2 n))]
    unfold Axis.Between
    have mono (f : Nat → Nat) (hf : ∀ {a b}, a ≤ b → f a ≤ f b) : min (f p) (f q) = f (min p q) ∧ max (f p) (f q) = f (max p q) := by
      rcases le_total p q with h | h
      · simp [h, hf h]
      · simp [h, hf h]
    by_cases hk : a.kind = .slide
    · obtain ⟨h1, h2⟩ := mono (millimetres · a.pitch) fun h => Nat.div_le_div_right (Nat.mul_le_mul_right _ h)
      simp only [hk, if_true, mem_shiftSet, h1, h2]
      rfl
    · obtain ⟨h1, h2⟩ := mono (a.stationAt e) fun h => stationOf_mono _ _ h
      simp only [hk, if_false, mem_between, h1, h2]
      rfl

/-! ### Cells of a unit (R37, R38) -/

theorem mem_stationCells (t : List Station) (i : Nat) (y : RelCell) : y ∈ stationCells t i ↔ StationHas t i y := by
  unfold stationCells StationHas
  cases t[i]? <;> simp

theorem GeomEntry.mem_relative (e : GeomEntry) (b : Option Nat) (r h : Nat) (y : RelCell) :
    y ∈ e.relative b r h ↔ e.Has b r h y := by
  have hh : y ∈ stationCells (e.headrest.getD []) h ↔ ∃ t, e.headrest = some t ∧ StationHas t h y := by
    rw [mem_stationCells]
    cases e.headrest <;> simp [StationHas]
  cases b with
  | none => simp only [GeomEntry.relative, GeomEntry.Has, List.mem_append, mem_stationCells e.recline, hh]
  | some i =>
    have hf : stationFlag e.base i = false ↔ ∀ x, e.base[i]? = some x → x.flag = false := by
      unfold stationFlag
      cases e.base[i]? <;> simp
    simp only [GeomEntry.relative, GeomEntry.Has, ← hf]
    cases stationFlag e.base i <;>
      simp only [Bool.false_eq_true, reduceCtorEq, if_true, if_false, List.mem_append, mem_stationCells e.base, mem_stationCells e.recline, hh,
        and_true, and_false, or_false]

theorem Placement.cell?_eq_some (pl : Placement) (j : Nat) (y : RelCell) (x : Cell) :
    pl.cell? j y = some x ↔ pl.Puts j y x := by
  obtain ⟨l, ⟨c, hc⟩, ⟨t, ht⟩⟩ := x
  have lane (n : Nat) : Lane.ofNum? n = some l ↔ n = l.num := by
    constructor
    · intro h; unfold Lane.ofNum? at h; split at h <;> cases h <;> rfl
    · rintro rfl; cases l <;> rfl
  have : pl.cell? j y = if 0 ≤ (if pl.mirror then (pl.lane.num : Int) - y.lane else (pl.lane.num : Int) + y.lane) then
      (Lane.ofNum? (if pl.mirror then (pl.lane.num : Int) - y.lane else (pl.lane.num : Int) + y.lane).toNat).bind fun l =>
        if hc : pl.origin + y.col + j < 16 then if ht : y.tier < 6 then some ⟨l, ⟨_, hc⟩, ⟨_, ht⟩⟩ else none else none
      else none := by
    unfold Placement.cell?
    by_cases h0 : 0 ≤ (if pl.mirror then (pl.lane.num : Int) - y.lane else (pl.lane.num : Int) + y.lane)
    · rw [if_pos h0, if_neg (by omega)]
      cases Lane.ofNum? _ <;> rfl
    · rw [if_neg h0, if_pos (by omega)]
  rw [this]
  constructor
  · intro h
    by_cases h0 : 0 ≤ (if pl.mirror then (pl.lane.num : Int) - y.lane else (pl.lane.num : Int) + y.lane)
    · rw [if_pos h0, Option.bind_eq_some_iff] at h
      obtain ⟨l', hl', h⟩ := h
      by_cases hc' : pl.origin + y.col + j < 16
      · by_cases ht' : y.tier < 6
        · rw [dif_pos hc', dif_pos ht'] at h
          cases h
          have := (lane _).1 hl'
          exact ⟨by dsimp only; omega, rfl, rfl⟩
        · rw [dif_pos hc', dif_neg ht'] at h; cases h
      · rw [dif_neg hc'] at h; cases h
    · rw [if_neg h0] at h; cases h
  · rintro ⟨hl, hcol, htier⟩
    dsimp only at hl hcol htier
    subst hcol htier
    rw [← hl, if_pos (by omega), Int.toNat_natCast, (lane l.num).2 rfl]
    simp [hc, ht]

/-! ### Poses -/

/-- The cells of a pose are those of each combination of its stations and shifts (R38, R39). -/
theorem mem_span (e : GeomEntry) (pl : Placement) (p : Pose) (x : Cell) : (span e pl p).mem x = true ↔
    ∃ b ∈ p.bases, ∃ r ∈ p.reclines, ∃ h ∈ p.heads, ∃ j ∈ p.shifts, ∃ y, e.Has b r h y ∧ pl.Puts j y x := by
  simp only [span, GeomEntry.relatives, CellSet.mem_ofList, List.mem_flatMap, List.mem_filterMap, GeomEntry.mem_relative,
    Placement.cell?_eq_some]
  constructor
  · rintro ⟨j, hj, y, ⟨b, hb, r, hr, h, hh, hy⟩, hx⟩
    exact ⟨b, hb, r, hr, h, hh, j, hj, y, hy, hx⟩
  · rintro ⟨b, hb, r, hr, h, hh, j, hj, y, hy, hx⟩
    exact ⟨j, hj, y, ⟨b, hb, r, hr, h, hh, hy⟩, hx⟩

theorem findAxis_eq_some {l : List Axis} (h : (l.map (·.kind)).Nodup) {k : AxisKind} {a : Axis} :
    findAxis l k = some a ↔ a ∈ l ∧ a.kind = k := by
  unfold findAxis
  constructor
  · intro e
    exact ⟨List.mem_of_find?_eq_some e, by simpa using List.find?_some e⟩
  · rintro ⟨ha, rfl⟩
    induction l with
    | nil => cases ha
    | cons b l ih =>
      rw [List.map_cons, List.nodup_cons] at h
      rw [List.find?_cons]
      rcases List.mem_cons.1 ha with rfl | ha
      · simp
      · have : b.kind ≠ a.kind := fun e => h.1 (e ▸ List.mem_map_of_mem ha)
        simpa [this] using ih h.2 ha

theorem findAxis_eq_none {l : List Axis} {k : AxisKind} : findAxis l k = none ↔ ∀ a ∈ l, a.kind ≠ k := by
  simp [findAxis]

/-- The cells of a unit whose axes stand where `places` has them, or at their posture, are those the dock covers (R37 to R39). -/
theorem mem_span_poseWith (r : DockRec) (e : GeomEntry) (pl : PlacementCopy) (hr : r.geometry = some e)
    (hp : r.placement = some pl) (hk : (r.axes.map (·.kind)).Nodup) (places : AxisKind → Option (List Nat))
    (stands : Axis → GeomEntry → Nat → Prop)
    (hs : ∀ a ∈ r.axes, ∀ j, j ∈ (places a.kind).getD (a.places e) ↔ stands a e j) (x : Cell) :
    (span e pl.place (poseWith e r.axes places)).mem x = true ↔ r.Covers stands x := by
  have one (k : AxisKind) (j : Nat) :
      j ∈ (((findAxis r.axes k).map fun a => (places k).getD (a.places e)).getD [0]) ↔
        (∃ a ∈ r.axes, a.kind = k ∧ stands a e j) ∨ (∀ a ∈ r.axes, a.kind ≠ k) ∧ j = 0 := by
    cases hf : findAxis r.axes k with
    | none =>
      have := findAxis_eq_none.1 hf
      simp only [Option.map_none, Option.getD_none, List.mem_singleton]
      exact ⟨fun h => .inr ⟨this, h⟩, fun h => h.elim (fun ⟨a, ha, he, _⟩ => absurd he (this a ha)) (·.2)⟩
    | some a =>
      obtain ⟨ha, rfl⟩ := (findAxis_eq_some hk).1 hf
      simp only [Option.map_some, Option.getD_some, hs a ha]
      constructor
      · exact fun h => .inl ⟨a, ha, rfl, h⟩
      · rintro (⟨b, hb, hbk, h⟩ | ⟨h, -⟩)
        · have := (findAxis_eq_some hk).2 ⟨hb, hbk⟩
          rw [hf] at this
          cases this
          exact h
        · exact absurd rfl (h a ha)
  have base (b : Option Nat) : b ∈ (poseWith e r.axes places).bases ↔ match b with
      | none => ∀ a ∈ r.axes, a.kind ≠ e.kind.baseAxis
      | some i => ∃ a ∈ r.axes, a.kind = e.kind.baseAxis ∧ stands a e i := by
    unfold poseWith
    cases hf : findAxis r.axes e.kind.baseAxis with
    | none =>
      have := findAxis_eq_none.1 hf
      cases b with
      | none => simpa [hf] using this
      | some i => simp only [hf, Option.map_none, List.mem_singleton, reduceCtorEq, false_iff]
                  rintro ⟨a, ha, he, -⟩; exact this a ha he
    | some a =>
      obtain ⟨ha, he⟩ := (findAxis_eq_some hk).1 hf
      cases b with
      | none =>
        simp only [hf, Option.map_some, List.mem_map, reduceCtorEq, and_false, exists_false, false_iff]
        exact fun h => h a ha he
      | some i =>
        simp only [hf, Option.map_some, List.mem_map, Option.some.injEq, exists_eq_right]
        rw [← he, hs a ha]
        constructor
        · exact fun h => ⟨a, ha, rfl, h⟩
        · rintro ⟨b, hb, hbk, h⟩
          have := (findAxis_eq_some hk).2 ⟨hb, hbk.trans he⟩
          rw [hf] at this
          cases this
          exact h
  rw [mem_span]
  constructor
  · rintro ⟨b, hb, rc, hrc, h, hh, j, hj, y, hy, hx⟩
    exact ⟨e, pl, b, rc, h, j, y, hr, hp, hy, hx, (one _ _).1 hrc, (one _ _).1 hh, (one _ _).1 hj, (base b).1 hb⟩
  · rintro ⟨e', pl', b, rc, h, j, y, hr', hp', hy, hx, hrc, hh, hj, hb⟩
    rw [hr] at hr'; cases hr'
    rw [hp] at hp'; cases hp'
    exact ⟨b, (base b).2 hb, rc, (one _ _).2 hrc, h, (one _ _).2 hh, j, (one _ _).2 hj, y, hy, hx⟩

/-! ### Matching, validation and the match (R61, R62, R65) -/

theorem Entry.matched_iff (e : Entry) (docks : PerDock DockRec) : e.matched docks = true ↔ e.Matches docks := by
  unfold Entry.matched Entry.Matches
  dsimp only
  cases hi : (docks.get e.dock).identity with
  | none => simp
  | some i =>
    rw [Bool.and_eq_true, decide_eq_true_eq]
    cases e.expected <;> simp [eq_comm]

/-- What the final footprint of a dock holds (R62). -/
theorem DockRec.mem_finalFootprint (r : DockRec) (hk : (r.axes.map (·.kind)).Nodup) (targets : List (AxisKind × Nat))
    (ht : (targets.map (·.1)).Nodup) (x : Cell) :
    (r.finalFootprint targets).mem x = true ↔ r.Covers (·.PlacedBy targets) x := by
  unfold DockRec.finalFootprint
  cases hg : r.geometry with
  | none => simp [DockRec.Covers, hg]
  | some e =>
    cases hp : r.placement with
    | none => simp [DockRec.Covers, hp]
    | some pl =>
      refine mem_span_poseWith r e pl hg hp hk _ _ (fun a ha j => ?_) x
      have hf := (findAxis_eq_some hk).2 ⟨ha, rfl⟩
      unfold finalPlaces Axis.PlacedBy
      rw [hf]
      cases ht' : targets.find? fun t => t.1 = a.kind with
      | none =>
        have hn : ∀ v, (a.kind, v) ∉ targets := fun v hv => by simpa using List.find?_eq_none.1 ht' _ hv
        simp [hn, Axis.places, Axis.mem_rangeOf]
      | some t =>
        obtain ⟨k, w⟩ := t
        have hw := List.mem_of_find?_eq_some ht'
        obtain rfl : k = a.kind := by simpa using List.find?_some ht'
        have one (v : Nat) : (a.kind, v) ∈ targets ↔ v = w := by
          refine ⟨fun hv => ?_, fun h => h ▸ hw⟩
          simpa using List.inj_on_of_nodup_map ht hv hw rfl
        cases he : a.enabled with
        | false => simp [he, Axis.places, Axis.mem_rangeOf]
        | true =>
          by_cases hs : a.kind = .slide
          · rw [hs] at one
            simp [he, one, hs, mem_shiftSet, Axis.clampTarget, Axis.travelMm, millimetres]
          · simp [he, one, hs, Axis.clampTarget, GeomEntry.lastStation]

theorem LayoutRec.equalsPosture_iff (l : LayoutRec) (docks : PerDock DockRec)
    (hk : ∀ d, ((docks.get d).axes.map (·.kind)).Nodup) : l.equalsPosture docks = true ↔ l.Equals docks := by
  have met (r : DockRec) (hr : (r.axes.map (·.kind)).Nodup) (k : AxisKind) (v : Nat) : targetMet r (k, v) = true ↔
      ∀ a ∈ r.axes, a.kind = k → ∀ e, r.geometry = some e → a.Meets e v := by
    unfold targetMet
    cases hf : findAxis r.axes k with
    | none => simp only [true_iff]; exact fun a ha h => absurd h (findAxis_eq_none.1 hf a ha)
    | some a =>
      have ha := (findAxis_eq_some hr).1 hf
      cases hg : r.geometry with
      | none => simp
      | some e =>
        have : (∀ b ∈ r.axes, b.kind = k → ∀ e', some e = some e' → b.Meets e' v) ↔ a.Meets e v := by
          constructor
          · exact fun h => h a ha.1 ha.2 e rfl
          · rintro h b hb hbk _ ⟨⟩
            have := (findAxis_eq_some hr).2 ⟨hb, hbk⟩
            rw [hf] at this
            cases this
            exact h
        rw [this]
        unfold Axis.Meets
        by_cases hs : a.kind = .slide <;>
          simp [hs, Axis.clampTarget, Axis.travelMm, millimetres, GeomEntry.lastStation, Axis.stationAt]
  unfold LayoutRec.equalsPosture LayoutRec.Equals
  simp only [Bool.and_eq_true, Bool.or_eq_true, decide_eq_true_eq, List.all_eq_true, List.mem_filter, Entry.matched_iff, and_imp]
  refine and_congr_right fun _ => forall_congr' fun x => forall_congr' fun _ => forall_congr' fun _ => ?_
  constructor
  · exact fun h k v hv => (met _ (hk _) k v).1 (h (k, v) hv)
  · exact fun h p hp => (met _ (hk _) p.1 p.2).2 (h p.1 p.2 hp)

end Sys2Proof.Machine
end

