-- ==== Sys2Proof/Laws/Forms.lean ====
section
/-! SUPPORT. What the form checks of the settings requests accept, and what they make of it (R31, R33, R166). -/

namespace Sys2Proof

open Machine

/-! ### Codes -/

theorem Dock.ofNum?_eq_some {n : Nat} {d : Dock} : Dock.ofNum? n = some d ↔ d.num = n := by
  constructor
  · intro h
    unfold Dock.ofNum? at h
    split at h <;> cases h <;> rfl
  · rintro rfl
    cases d <;> rfl

theorem Dock.exists_num {n : Nat} : (∃ d : Dock, d.num = n) ↔ 1 ≤ n ∧ n ≤ 5 := by
  constructor
  · rintro ⟨d, rfl⟩
    cases d <;> decide
  · rintro ⟨h1, h5⟩
    have : n = 1 ∨ n = 2 ∨ n = 3 ∨ n = 4 ∨ n = 5 := by omega
    rcases this with rfl | rfl | rfl | rfl | rfl
    exacts [⟨.d1, rfl⟩, ⟨.d2, rfl⟩, ⟨.d3, rfl⟩, ⟨.d4, rfl⟩, ⟨.d5, rfl⟩]

theorem UnitKind.ofCode?_eq_some {n : Nat} {k : UnitKind} : UnitKind.ofCode? n = some k ↔ k.code = n := by
  constructor
  · intro h
    unfold UnitKind.ofCode? at h
    split at h <;> cases h <;> rfl
  · rintro rfl
    cases k <;> rfl

theorem UnitKind.exists_code {n : Nat} : (∃ k : UnitKind, k.code = n) ↔ n ≤ 2 := by
  constructor
  · rintro ⟨k, rfl⟩
    cases k <;> decide
  · intro h
    have : n = 0 ∨ n = 1 ∨ n = 2 := by omega
    rcases this with rfl | rfl | rfl
    exacts [⟨.captain, rfl⟩, ⟨.centre, rfl⟩, ⟨.third, rfl⟩]

theorem Machine.Lane.ofNum?_eq_some {n : Nat} {l : Lane} : Lane.ofNum? n = some l ↔ l.num = n := by
  constructor
  · intro h
    unfold Lane.ofNum? at h
    split at h <;> cases h <;> rfl
  · rintro rfl
    cases l <;> rfl

theorem Machine.Lane.exists_num {n : Nat} : (∃ l : Lane, l.num = n) ↔ n ≤ 2 := by
  constructor
  · rintro ⟨l, rfl⟩
    cases l <;> decide
  · intro h
    have : n = 0 ∨ n = 1 ∨ n = 2 := by omega
    rcases this with rfl | rfl | rfl
    exacts [⟨.left, rfl⟩, ⟨.centre, rfl⟩, ⟨.right, rfl⟩]

/-! ### Bindings (R166) -/

/-- What the check of a binding accepts keeps to the table of R166, and is made as it says. -/
theorem Machine.bindingOf?_makes {b : RawBinding} {x : Binding} (h : bindingOf? b = some x) : b.WellFormed ∧ b.Makes x := by
  obtain ⟨g, z, a, n⟩ := b
  have layout {n : Nat} (h : 1 ≤ n ∧ n ≤ 24) : (0 = 0 ∧ 1 ≤ n ∧ n ≤ 24 ∨ 0 = 1 ∧ 1 ≤ n ∧ n ≤ 5) := .inl ⟨rfl, h⟩
  have dock (d : Dock) : (1 = 0 ∧ 1 ≤ d.num ∧ d.num ≤ 24 ∨ 1 = 1 ∧ 1 ≤ d.num ∧ d.num ≤ 5) :=
    .inr ⟨rfl, Dock.exists_num.1 ⟨d, rfl⟩⟩
  rcases g with _ | _ | _ | _ | g <;> rcases z with _ | z <;> rcases a with _ | _ | _ | a <;>
    simp [bindingOf?, Gesture.ofCode?, Dock.ofNum?_eq_some] at h
  case zero.some.zero =>
    obtain ⟨hz, hn, rfl⟩ := h
    exact ⟨⟨by dsimp only; omega, ⟨z, rfl, hz⟩, layout hn⟩, rfl, rfl, rfl, rfl⟩
  case zero.some.succ.zero =>
    obtain ⟨hz, d, rfl, rfl⟩ := h
    exact ⟨⟨by dsimp only; omega, ⟨z, rfl, hz⟩, dock d⟩, rfl, rfl, rfl, rfl⟩
  case succ.zero.none.zero | succ.succ.zero.none.zero =>
    obtain ⟨hn, rfl⟩ := h
    exact ⟨⟨by dsimp only; omega, rfl, layout hn⟩, rfl, rfl, rfl, rfl⟩
  case succ.zero.none.succ.zero | succ.succ.zero.none.succ.zero =>
    obtain ⟨d, rfl, rfl⟩ := h
    exact ⟨⟨by dsimp only; omega, rfl, dock d⟩, rfl, rfl, rfl, rfl⟩
  case succ.succ.succ.zero.none.succ.succ.zero =>
    obtain ⟨d, rfl, rfl⟩ := h
    exact ⟨⟨by dsimp only; omega, rfl, ⟨rfl, Dock.exists_num.1 ⟨d, rfl⟩⟩⟩, rfl, rfl, rfl, rfl⟩

/-- A binding that keeps to the table of R166 is accepted. -/
theorem Machine.bindingOf?_of_wellFormed {b : RawBinding} (h : b.WellFormed) : ∃ x, bindingOf? b = some x := by
  obtain ⟨g, z, a, n⟩ := b
  obtain ⟨hg, hz, ha⟩ := h
  simp only at hg hz ha
  have toDock (h : 1 ≤ n ∧ n ≤ 5) : ∃ d, Dock.ofNum? n = some d := (Dock.exists_num.2 h).imp fun _ => Dock.ofNum?_eq_some.2
  have : g = 0 ∨ g = 1 ∨ g = 2 ∨ g = 3 := by omega
  rcases this with rfl | rfl | rfl | rfl <;> simp only [reduceIte, Nat.reduceEqDiff, one_ne_zero, OfNat.ofNat_ne_zero, OfNat.zero_ne_ofNat, OfNat.one_ne_ofNat] at hz ha
  · obtain ⟨z, rfl, hz⟩ := hz
    obtain ⟨rfl, hn⟩ | ⟨rfl, hn⟩ := ha
    · simp [bindingOf?, Gesture.ofCode?, hz, hn]
    · obtain ⟨d, hd⟩ := toDock hn
      simp [bindingOf?, Gesture.ofCode?, hz, hd]
  · subst hz
    obtain ⟨rfl, hn⟩ | ⟨rfl, hn⟩ := ha
    · simp [bindingOf?, Gesture.ofCode?, hn]
    · obtain ⟨d, hd⟩ := toDock hn
      simp [bindingOf?, Gesture.ofCode?, hd]
  · subst hz
    obtain ⟨rfl, hn⟩ | ⟨rfl, hn⟩ := ha
    · simp [bindingOf?, Gesture.ofCode?, hn]
    · obtain ⟨d, hd⟩ := toDock hn
      simp [bindingOf?, Gesture.ofCode?, hd]
  · subst hz
    obtain ⟨rfl, hn⟩ := ha
    obtain ⟨d, hd⟩ := toDock hn
    simp [bindingOf?, Gesture.ofCode?, hd]

/-! ### Geometry (R31) -/

theorem Machine.cellListOk_iff {l : List RelCell} : cellListOk l = true ↔ CellListFormed l := by
  simp only [cellListOk, relCellInRange, Bool.and_eq_true, decide_eq_true_eq, List.all_eq_true]
  exact ⟨fun h => ⟨h.1.1, h.2, fun c hc => by have := h.1.2 c hc; omega⟩,
    fun h => ⟨⟨h.count, fun c hc => by have := h.range c hc; omega⟩, h.once⟩⟩

theorem rising_iff (l : List Nat) : (l.zip l.tail).all (fun p => decide (p.1 < p.2)) = true ↔ l.Pairwise (· < ·) := by
  rw [← List.isChain_iff_pairwise]
  induction l with
  | nil => simp
  | cons a l ih =>
    cases l with
    | nil => simp
    | cons b l => simpa using fun _ => ih

theorem Machine.tableOk_iff {t : List Station} : tableOk t = true ↔ StationTableFormed t := by
  simp only [tableOk, Bool.and_eq_true, decide_eq_true_eq, beq_iff_eq, rising_iff]
  simp only [List.all_eq_true, List.mem_map, decide_eq_true_eq, forall_exists_index, and_imp, forall_apply_eq_imp_iff₂, cellListOk_iff,
    List.head?_map]
  exact ⟨fun ⟨⟨⟨⟨⟨h2, h8⟩, h0⟩, hl⟩, hr⟩, hc⟩ => ⟨⟨h2, h8⟩, h0, hr, hl, hc⟩,
    fun h => ⟨⟨⟨⟨⟨h.count.1, h.count.2⟩, h.first⟩, h.last⟩, h.rising⟩, h.cells⟩⟩

/-- The check of contents accepts what keeps to the table of R31, and makes the entry it says. -/
theorem Machine.rawEntry?_eq_some {g : RawGeometry} {k : UnitKind} {revision : Nat} {e : GeomEntry} :
    rawEntry? g k revision = some e ↔ g.WellFormed k ∧ g.Makes k revision e := by
  obtain ⟨reach, base, recline, headrest, fixed⟩ := g
  obtain ⟨k', revision', reach', base', recline', headrest', fixed'⟩ := e
  constructor
  · intro h
    cases base with
    | none => cases h
    | some b =>
      cases recline with
      | none => cases h
      | some r =>
        cases fixed with
        | none => cases h
        | some f =>
          simp only [rawEntry?, Option.ite_none_right_eq_some, Bool.and_eq_true, tableOk_iff, cellListOk_iff, Option.some.injEq] at h
          obtain ⟨⟨⟨⟨⟨hreach, hhead⟩, hb⟩, hr⟩, hf⟩, he⟩ := h
          cases he
          refine ⟨⟨?_, ⟨_, rfl, hb⟩, ⟨_, rfl, hr⟩, ?_, ⟨_, rfl, hf⟩⟩, ⟨rfl, rfl⟩, rfl, rfl, rfl, rfl, rfl⟩
          · cases k <;> cases reach <;> simp_all
          · cases k <;> cases headrest <;> simp_all [tableOk_iff]
  · rintro ⟨⟨hreach, ⟨b, hb, hbok⟩, ⟨r, hr, hrok⟩, hhead, ⟨f, hf, hfok⟩⟩, ⟨hkind, hrev⟩, hreach', hb', hr', hhead', hf'⟩
    simp only at hreach hb hr hhead hf hkind hrev hreach' hb' hr' hhead' hf'
    subst hkind hrev hreach' hhead'
    cases hb; cases hr; cases hf; cases hb'; cases hr'; cases hf'
    simp only [rawEntry?, tableOk_iff.2 hbok, tableOk_iff.2 hrok, cellListOk_iff.2 hfok, Bool.and_true]
    rw [if_pos]
    · rfl
    · cases k' <;> simp only [reduceIte, reduceCtorEq] at hreach hhead
      · obtain ⟨mm, rfl, hm⟩ := hreach
        obtain ⟨t, rfl, ht⟩ := hhead
        simp [hm, tableOk_iff.2 ht]
      · obtain ⟨mm, rfl, hm⟩ := hreach
        subst hhead
        simp [hm]
      · obtain ⟨t, rfl, ht⟩ := hhead
        subst hreach
        simp [tableOk_iff.2 ht]

/-- Contents that keep to the table of R31 make an entry. -/
theorem RawGeometry.WellFormed.makes {g : RawGeometry} {k : UnitKind} (h : g.WellFormed k) (revision : Nat) :
    ∃ e, g.Makes k revision e := by
  obtain ⟨b, hb, -⟩ := h.base
  obtain ⟨r, hr, -⟩ := h.recline
  obtain ⟨f, hf, -⟩ := h.fixed
  exact ⟨⟨k, revision, g.reach, b, r, _, f⟩, ⟨rfl, rfl⟩, rfl, hb, hr, rfl, hf⟩

/-! ### Placements (R33) -/

theorem Machine.placementOf?_eq_some {r : RawPlacement} {p : Placement} :
    placementOf? r = some p ↔ r.WellFormed ∧ r.Makes p := by
  obtain ⟨l, o, m, k⟩ := r
  obtain ⟨l', o', m', k'⟩ := p
  constructor
  · intro h
    unfold placementOf? at h
    split at h
    · rename_i l'' k'' hl hk
      simp only [Option.ite_none_right_eq_some, Bool.and_eq_true, decide_eq_true_eq, Option.some.injEq] at h
      obtain ⟨⟨ho, hm⟩, he⟩ := h
      cases he
      have hl := Lane.ofNum?_eq_some.1 hl
      have hk := UnitKind.ofCode?_eq_some.1 hk
      exact ⟨⟨Lane.exists_num.1 ⟨_, hl⟩, ho, hm, UnitKind.exists_code.1 ⟨_, hk⟩⟩, hl, rfl, beq_iff_eq, hk⟩
    · cases h
  · rintro ⟨⟨-, ho, hm, -⟩, hl, rfl, hm', hk⟩
    simp only at ho hm hl hm' hk
    have hm'' : (m == 1) = m' := by
      rw [Bool.eq_iff_iff, hm', beq_iff_eq]
    simp [placementOf?, Lane.ofNum?_eq_some.2 hl, UnitKind.ofCode?_eq_some.2 hk, ho, hm, hm'']

theorem RawPlacement.WellFormed.makes {r : RawPlacement} (h : r.WellFormed) : ∃ p, r.Makes p := by
  obtain ⟨l, hl⟩ := Lane.exists_num.2 h.lane
  obtain ⟨k, hk⟩ := UnitKind.exists_code.2 h.kind
  exact ⟨⟨l, r.origin, r.mirror == 1, k⟩, hl, rfl, beq_iff_eq, hk⟩

/-- Five placements in range make a table, each at its dock's place. -/
theorem Machine.dockTableOf?_eq_some {l : List RawPlacement} {t : PerDock Placement} :
    dockTableOf? l = some t ↔
      (l.length = 5 ∧ ∀ r ∈ l, r.WellFormed) ∧ ∀ d : Dock, ∃ r, l[d.num - 1]? = some r ∧ r.Makes (t.get d) := by
  constructor
  · intro h
    unfold dockTableOf? at h
    split at h
    · rename_i a b c d e
      split at h
      · rename_i ha hb hc hd he
        cases h
        rw [placementOf?_eq_some] at ha hb hc hd he
        refine ⟨⟨rfl, ?_⟩, fun x => ?_⟩
        · simpa using ⟨ha.1, hb.1, hc.1, hd.1, he.1⟩
        · cases x
          exacts [⟨a, rfl, ha.2⟩, ⟨b, rfl, hb.2⟩, ⟨c, rfl, hc.2⟩, ⟨d, rfl, hd.2⟩, ⟨e, rfl, he.2⟩]
      · cases h
    · cases h
  · rintro ⟨⟨hlen, hall⟩, hd⟩
    match l, hlen with
    | [a, b, c, d, e], _ =>
      have at_ (x : Dock) (r : RawPlacement) (hr : [a, b, c, d, e][x.num - 1]? = some r) : placementOf? r = some (t.get x) := by
        obtain ⟨r', hr', hm⟩ := hd x
        cases hr.symm.trans hr'
        exact placementOf?_eq_some.2 ⟨hall r (List.mem_of_getElem? hr), hm⟩
      simp only [dockTableOf?, at_ .d1 a rfl, at_ .d2 b rfl, at_ .d3 c rfl, at_ .d4 d rfl, at_ .d5 e rfl]
      rfl

end Sys2Proof
end

