-- ==== Sys2Proof/Laws/Keeps.lean ====
section
/-! SUPPORT. What every sequence of the updates of Laws/Moves.lean keeps: the settings, the effective budget, the fixed part
of each dock record, the admitted part of each order record, the contents of each layout, and the subjects pending. -/

namespace Sys2Proof.Machine

open Sys2Proof

/-! ### Notices (R172) -/

theorem pend_subjects (l : List Notice) (s : Subject) (i : Option Indication) :
    (pend l s i).map (·.subject) = if s ∈ l.map (·.subject) then l.map (·.subject) else l.map (·.subject) ++ [s] := by
  unfold pend
  have e : (l.any fun n => decide (n.subject = s)) = true ↔ s ∈ l.map (·.subject) := by
    simp only [List.any_eq_true, decide_eq_true_eq, List.mem_map]
  by_cases h : s ∈ l.map (·.subject)
  · rw [if_pos (e.mpr h), if_pos h, List.map_map]
    refine List.map_congr_left fun n _ => ?_
    simp only [Function.comp_apply]
    split <;> rfl
  · rw [if_neg fun k => h (e.mp k), if_neg h, List.map_append]
    rfl

/-- A subject made pending is pending (R172). -/
theorem pend_mem (l : List Notice) (s : Subject) (i : Option Indication) : s ∈ (pend l s i).map (·.subject) := by
  rw [pend_subjects]
  split
  · next h => exact h
  · exact List.mem_append_right _ (List.mem_singleton.mpr rfl)

/-- Nothing pending is lost when a subject is made pending (R172). -/
theorem pend_keeps {l : List Notice} {s t : Subject} {i : Option Indication} (h : t ∈ l.map (·.subject)) :
    t ∈ (pend l s i).map (·.subject) := by
  rw [pend_subjects]
  split
  · exact h
  · exact List.mem_append_left _ h

/-- With an indication given, the subject's entry carries it (R172). -/
theorem pend_indication (l : List Notice) (s : Subject) (i : Indication) : ⟨s, some i⟩ ∈ pend l s (some i) := by
  unfold pend
  split
  · next h =>
    obtain ⟨n, hn, e⟩ := List.any_eq_true.mp h
    have e : n.subject = s := of_decide_eq_true e
    refine List.mem_map.mpr ⟨n, hn, ?_⟩
    rw [if_pos e]
    cases n
    cases e
    rfl
  · exact List.mem_append_right _ (List.mem_singleton.mpr rfl)

/-! ### Layouts in number order (R50) -/

/-- Where the live numbers rise, a record put in place of the one of its number changes that one alone. -/
theorem put_of_find {t : LayoutTable} (hr : (t.live.map (·.number)).Pairwise (· < ·)) {n : Nat} {l : LayoutRec}
    (h : t.find? n = some l) (v : Validation) :
    (t.put { l with validation := v }).live = t.live.map fun x => if x.number = n then { l with validation := v } else x := by
  obtain ⟨live, m, dirty⟩ := t
  have hn : l.number = n := by
    have := List.find?_some h
    exact of_decide_eq_true this
  subst hn
  have hm : l ∈ live := List.mem_of_find?_eq_some h
  clear h
  show (live.takeWhile fun x => decide (x.number < l.number)) ++ { l with validation := v } ::
      live.filter (fun x => decide (l.number < x.number)) = _
  change (live.map (·.number)).Pairwise (· < ·) at hr
  induction live with
  | nil => cases hm
  | cons x xs ih =>
    rw [List.map_cons, List.pairwise_cons] at hr
    rcases List.mem_cons.mp hm with rfl | hm'
    · have hgt : ∀ y ∈ xs, l.number < y.number := fun y hy => hr.1 _ (List.mem_map_of_mem hy)
      rw [List.takeWhile_cons, if_neg (by simp), List.nil_append, List.filter_cons, if_neg (by simp),
        List.filter_eq_self.mpr fun y hy => decide_eq_true (hgt y hy), List.map_cons, if_pos rfl]
      congr 1
      refine (List.map_id xs).symm.trans (List.map_congr_left fun y hy => ?_)
      rw [if_neg (Nat.ne_of_gt (hgt y hy))]
      rfl
    · have hlt : x.number < l.number := hr.1 _ (List.mem_map_of_mem hm')
      rw [List.takeWhile_cons, if_pos (decide_eq_true hlt), List.cons_append, List.filter_cons,
        if_neg (by simp; omega), ih hm' hr.2, List.map_cons, if_neg (Nat.ne_of_lt hlt)]

/-- What validation does not change of a record. -/
def LayoutRec.unvalidated (l : LayoutRec) : LayoutRec := { l with validation := .noMatch }

theorem validated_contents {t : LayoutTable} (hr : (t.live.map (·.number)).Pairwise (· < ·)) {n : Nat} {l : LayoutRec}
    (h : t.find? n = some l) (v : Validation) :
    (t.put { l with validation := v }).live.map LayoutRec.unvalidated = t.live.map LayoutRec.unvalidated := by
  rw [put_of_find hr h, List.map_map]
  have hn : l.number = n := by
    have := List.find?_some h
    exact of_decide_eq_true this
  refine List.map_congr_left fun x hx => ?_
  simp only [Function.comp_apply]
  split
  · next e =>
    have : x = l := by
      have hl : l ∈ t.live := List.mem_of_find?_eq_some h
      have nd : (t.live.map (·.number)).Nodup := hr.imp fun h => Nat.ne_of_lt h
      exact List.inj_on_of_nodup_map nd hx hl (e.trans hn.symm)
    rw [this]
    rfl
  · rfl

namespace Cabin.Moves

variable {w g : Bool} {a b : Cabin}

theorem set (h : Moves w g a b) : b.set = a.set := by
  induction h with
  | trans _ _ i j => exact j.trans i
  | _ => rfl

theorem envelopes (h : Moves w g a b) : b.envelopes = a.envelopes := by
  induction h with
  | trans _ _ i j => exact j.trans i
  | _ => rfl

/-- The effective budget changes in no inner working (R104). -/
theorem budget (h : Moves w g a b) : b.arb.budget = a.arb.budget := by
  induction h with
  | trans _ _ i j => exact j.trans i
  | _ => rfl

/-- A subject that is pending stays pending (R172). -/
theorem pending_stays (h : Moves w g a b) (s : Subject) (k : s ∈ a.notices.map (·.subject)) :
    s ∈ b.notices.map (·.subject) := by
  induction h with
  | trans _ _ i j => exact j (i k)
  | notify c s i => exact pend_keeps k
  | _ => exact k

/-- The live numbers rise, and what no validation changes stays (R64). -/
theorem layouts (h : Moves w g a b) (hr : (a.layouts.live.map (·.number)).Pairwise (· < ·)) :
    b.layouts.live.map LayoutRec.unvalidated = a.layouts.live.map LayoutRec.unvalidated ∧
      (b.layouts.live.map (·.number)).Pairwise (· < ·) := by
  have numbers (l : List LayoutRec) : l.map (·.number) = (l.map LayoutRec.unvalidated).map (·.number) := by
    rw [List.map_map]
    rfl
  suffices e : b.layouts.live.map LayoutRec.unvalidated = a.layouts.live.map LayoutRec.unvalidated by
    refine ⟨e, ?_⟩
    rw [numbers, e, ← numbers]
    exact hr
  induction h with
  | trans _ _ i j =>
    have e := i hr
    refine (j ?_).trans e
    rw [numbers, e, ← numbers]
    exact hr
  | validate c n l v h => exact validated_contents hr h v
  | _ => rfl

theorem dirty (h : Moves w g a b) : b.layouts.dirty = a.layouts.dirty := by
  induction h with
  | trans _ _ i j => exact j.trans i
  | _ => rfl

/-! ### Inner working without wide changes -/

theorem now (h : Moves false g a b) : b.now = a.now := by
  generalize hf : false = f at h
  induction h with
  | trans _ _ i j => exact (j hf).trans (i hf)
  | wide => cases hf
  | _ => rfl

theorem next (h : Moves false g a b) : b.pool.next = a.pool.next := by
  generalize hf : false = f at h
  induction h with
  | trans _ _ i j => exact (j hf).trans (i hf)
  | admitOrder => cases hf
  | _ => rfl

theorem grace (h : Moves false g a b) : b.pool.grace = a.pool.grace := by
  generalize hf : false = f at h
  induction h with
  | trans _ _ i j => exact (j hf).trans (i hf)
  | wide => cases hf
  | _ => rfl

/-- No motion, arbitration or presence decision changes the fixed part of a dock record. -/
theorem fixed (h : Moves false g a b) (d : Dock) : (b.dock d).fixed = (a.dock d).fixed := by
  generalize hf : false = f at h
  induction h with
  | trans _ _ i j => exact (j hf).trans (i hf)
  | dock c e r h =>
    by_cases k : d = e
    · subst k
      rw [dock_setDock_self]
      exact h
    · rw [dock_setDock_ne c r k]
  | wide => cases hf
  | _ => rfl

theorem dock_state (h : Moves false g a b) (d : Dock) : (b.dock d).state = (a.dock d).state :=
  (show (b.dock d).fixed.state = (a.dock d).fixed.state from congrArg DockRec.state (h.fixed d))

/-- An order record stays in its slot and follows what it was. -/
theorem follows (h : Moves false g a b) (s : Slot) (o : Order) (k : a.pool.recs.get s = some o) :
    ∃ o', b.pool.recs.get s = some o' ∧ o.Follows o' := by
  generalize hf : false = f at h
  induction h generalizing o with
  | trans _ _ i j =>
    obtain ⟨p, hp, hq⟩ := i o k hf
    obtain ⟨q, hq', hr⟩ := j p hp hf
    exact ⟨q, hq', hq.trans hr⟩
  | order c t x y h e =>
    by_cases i : s = t
    · subst i
      refine ⟨y, PerSlot.get_set_self _ _ _, ?_⟩
      rw [k] at h
      cases h
      exact e
    · exact ⟨o, (PerSlot.get_set_ne _ _ i).trans k, .refl o⟩
  | admitOrder => cases hf
  | _ => exact ⟨o, k, .refl o⟩

/-- A first failure once written stays (R95). -/
theorem failure_stays (h : Moves false g a b) {s : Slot} {o : Order} (k : a.pool.recs.get s = some o) {f : FirstFailure}
    (hf : o.firstFailure = some f) : ∃ o', b.pool.recs.get s = some o' ∧ o'.firstFailure = some f := by
  obtain ⟨o', h', e⟩ := h.follows s o k
  exact ⟨o', h', e.failure f hf⟩

end Cabin.Moves

end Sys2Proof.Machine
end

