-- ==== Sys2Proof/Laws/Runs.lean ====
section
/-! SUPPORT. What the operations on the whole part can do: `Runs s t` holds where `t` comes from `s` by updates of the cabin
(Laws/Moves.lean) and of the Port, the link and the pad; the store, the latch lines, the intrusion timer and the queue of
commands stay. -/

namespace Sys2Proof.Machine

open Sys2Proof

/-- The cabin goes through updates of its inner working; store, latches, intrusion timer and queue stay. -/
structure State.Runs (s t : State) : Prop where
  cab : s.cab.agenda.all Task.inner = true → Cabin.Moves true true s.cab t.cab
  store : t.store = s.store
  latchA : t.latchA = s.latchA
  latchB : t.latchB = s.latchB
  intrusion : t.intrusion = s.intrusion
  pending : t.pending = s.pending

namespace State

theorem Runs.refl (s : State) : Runs s s := ⟨fun _ => .refl _, rfl, rfl, rfl, rfl, rfl⟩

theorem Runs.trans {a b c : State} (h : Runs a b) (k : Runs b c) : Runs a c :=
  ⟨fun i => (h.cab i).trans (k.cab ((h.cab i).agenda_inner i)), k.store.trans h.store, k.latchA.trans h.latchA,
    k.latchB.trans h.latchB, k.intrusion.trans h.intrusion, k.pending.trans h.pending⟩

theorem Runs.ite {p : Prop} [Decidable p] {a b c : State} (h : p → Runs a b) (k : ¬p → Runs a c) :
    Runs a (if p then b else c) := by
  split
  · next e => exact h e
  · next e => exact k e

/-- Only Port, link and pad differ. -/
theorem Runs.outside (s : State) (p : Port) (l : Link) (d : Pad) : Runs s { s with port := p, link := l, pad := d } :=
  ⟨fun _ => .refl _, rfl, rfl, rfl, rfl, rfl⟩

theorem Runs.cabin (s : State) (f : Cabin → Cabin) (h : Cabin.Moves true true s.cab (f s.cab)) : Runs s (s.modCab f) :=
  ⟨fun _ => h, rfl, rfl, rfl, rfl, rfl⟩

theorem quietWires_runs (s : State) : Runs s s.quietWires := .outside s _ _ s.pad

theorem cascade_runs (s : State) : Runs s s.cascade :=
  ⟨fun h => Cabin.cascade_moves s.cab h, rfl, rfl, rfl, rfl, rfl⟩

theorem reach_runs (s : State) (t : Nat) : Runs s (s.reach t) := .cabin s _ (Cabin.clock_moves _ _)

/-! ### Power states (R24, R175, R176) -/

theorem leaveDoze_runs (s : State) : Runs s s.leaveDoze := .ite (fun _ => .outside s _ _ s.pad) fun _ => .refl s

theorem enterDoze_runs (s : State) : Runs s s.enterDoze := .outside s _ _ s.pad

theorem sendQueue_runs (s : State) : Runs s s.sendQueue := .ite (fun _ => .refl s) fun _ => .outside s _ s.link s.pad

theorem enterSleep_runs (s : State) : Runs s s.enterSleep :=
  (sendQueue_runs s).trans
    ⟨fun _ => Cabin.docks_moves _ _, rfl, rfl, rfl, rfl, rfl⟩

theorem leaveSleep_runs (s : State) : Runs s s.leaveSleep :=
  .ite (fun _ => ⟨fun _ => Cabin.docks_moves _ _, rfl, rfl, rfl, rfl, rfl⟩) fun _ => .refl s

theorem wake_runs (s : State) : Runs s s.wake := (leaveSleep_runs s).trans (leaveDoze_runs _)

theorem keepQuiet_runs (s : State) : Runs s s.keepQuiet := .outside s _ s.link s.pad

theorem closing_runs (s : State) : Runs s s.closing :=
  (keepQuiet_runs s).trans (.ite (fun _ => enterSleep_runs _) fun _ => .refl _)

theorem finish_runs (s : State) : Runs s s.finish := (cascade_runs s).trans (closing_runs _)

theorem expire_runs (s : State) (t : Timer) (f : State → State) (h : ∀ s, Runs s (f s)) : Runs s (s.expire t f) := by
  unfold expire
  split
  · exact ((reach_runs s _).trans (h _)).trans (finish_runs _)
  · exact .refl s

/-! ### The Seat Link (R13 to R20) -/

theorem sendLink_runs (s : State) (b : List Byte) : Runs s (s.sendLink b) := .outside s s.port _ s.pad

theorem awaitAnswer_runs (s : State) : Runs s s.awaitAnswer := .outside s s.port _ s.pad

theorem sendDrive_runs (s : State) (d : Dock) (cmd : MotorCmd) : Runs s (s.sendDrive d cmd) := by
  unfold sendDrive
  dsimp only
  have h (b : List Byte) : Runs s { (s.sendLink b).awaitAnswer with
      link := { (s.sendLink b).awaitAnswer.link with sent := (s.sendLink b).awaitAnswer.link.sent.set d cmd } } :=
    ((sendLink_runs s b).trans (awaitAnswer_runs _)).trans (.outside _ _ _ _)
  split
  · exact h _
  · exact (h _).trans (.cabin _ _ (.modMove _ _ _))

theorem sendPage_runs (s : State) (d : Dock) (p : ControllerPage) (t : Bool) : Runs s (s.sendPage d p t) := sendLink_runs s _

theorem modDock_runs (s : State) (d : Dock) (f : Cabin → DockRec → DockRec) :
    Runs s (s.modCab fun c => c.modDock d (f c)) := .cabin s _ (Cabin.modDock_moves _ _ _)

theorem sendDockSlot_runs (s : State) (d : Dock) : Runs s (s.sendDockSlot d).1 := by
  unfold sendDockSlot
  dsimp only
  split
  · exact .refl s
  · split
    · exact .refl s
    · exact .refl s
    · exact .refl s
    · split
      · dsimp only
        exact Runs.trans (sendPage_runs s d _ _) (.cabin _ _ (Cabin.modDock_moves _ _ _))
      · exact .refl s
    · exact sendDrive_runs s d _
    · refine Runs.trans (sendDrive_runs s d .brake) ?_
      dsimp only
      refine .ite (fun _ => ?_) fun _ => .refl _
      exact .cabin _ _ (Cabin.modDock_moves _ _ _)
    · split
      · dsimp only
        exact Runs.trans (sendPage_runs s d _ _) (.cabin _ _ (Cabin.modDock_moves _ _ _))
      · exact sendDrive_runs s d .brake

theorem sendSlot_runs (s : State) (x : LinkSlot) : Runs s (s.sendSlot x).1 := by
  cases x with
  | dock d => exact sendDockSlot_runs s d
  | pad => exact (sendLink_runs s _).trans (awaitAnswer_runs _)

theorem visit_runs (l : List LinkSlot) (s : State) : Runs s (visit l s) := by
  induction l generalizing s with
  | nil => exact .outside s s.port _ s.pad
  | cons x l ih =>
    unfold visit
    dsimp only
    split
    · exact (sendSlot_runs s x).trans (.outside _ _ _ _)
    · exact (sendSlot_runs s x).trans (ih _)

theorem startRound_runs (s : State) : Runs s s.startRound := by
  unfold startRound
  exact Runs.trans (.outside s s.port _ s.pad) (visit_runs _ _)

theorem dropSlot_runs (s : State) (d : Dock) : Runs s (s.dropSlot d) := by
  unfold dropSlot
  split
  · exact .outside s s.port _ s.pad
  · exact .refl s

theorem advance_runs (s : State) (x : LinkSlot) : Runs s (s.advance x) := by
  refine .ite (fun _ => ?_) fun _ => .refl s
  have h : Runs s (visit s.link.left.tail { s with link := { s.link with answerBy := none } }) :=
    Runs.trans (.outside s s.port _ s.pad) (visit_runs _ _)
  exact .ite (fun _ => h.trans (startRound_runs _)) fun _ => h

theorem resume_runs (s : State) (b : Bool) : Runs s (s.resume b) := by
  unfold resume
  split
  · exact .ite (fun _ => advance_runs s _) fun _ => .refl s
  · exact .refl s

theorem boundary_runs (s : State) : Runs s s.boundary := by
  unfold boundary
  split
  · exact .refl s
  · dsimp only
    split
    · exact Runs.trans (reach_runs s s.link.boundary) (Runs.trans (.outside _ _ _ _) (startRound_runs _))
    · exact Runs.trans (reach_runs s s.link.boundary) (.outside _ _ _ _)

theorem switchWake_runs (s : State) (d : Dock) (f : StatusFrame) : Runs s (s.switchWake d f) :=
  .ite (fun _ => leaveDoze_runs s) fun _ => .refl s

theorem dockAnswered_runs (s : State) (d : Dock) (f : StatusFrame) : Runs s (s.dockAnswered d f) := by
  unfold dockAnswered
  split
  · exact (switchWake_runs s d f).trans (.cabin _ _ (Cabin.statusFrame_moves _ _ _ _))
  · exact Runs.trans (.cabin s _ (Cabin.enterEnrolling_moves _ _)) (dropSlot_runs _ _)
  · exact .refl s

theorem missDockAnswer_runs (s : State) (d : Dock) : Runs s (s.missDockAnswer d) := by
  refine .ite (fun _ => ?_) fun _ => .refl s
  refine Runs.trans ?_ (finish_runs _)
  refine Runs.trans ?_ (advance_runs _ _)
  exact Runs.trans (.cabin s _ (Cabin.pollMissed_moves _ _)) (cascade_runs _)

theorem takeDockAnswer_runs (s : State) (d : Dock) (b : List Byte) : Runs s (s.takeDockAnswer d b) := by
  unfold takeDockAnswer
  split
  · refine .ite (fun _ => ?_) fun _ => .refl s
    exact (((dockAnswered_runs _ _ _).trans (cascade_runs _)).trans (advance_runs _ _)).trans (finish_runs _)
  · exact missDockAnswer_runs s d

theorem fifthMiss_runs (s : State) (d : Dock) : Runs s (s.fifthMiss d) :=
  .ite (fun _ => missDockAnswer_runs s d) fun _ => .refl s

theorem pageExpired_runs (s : State) (d : Dock) : Runs s (s.pageExpired d) := by
  unfold pageExpired
  split
  · exact .refl s
  · refine Runs.trans ?_ (finish_runs _)
    refine Runs.trans ?_ (advance_runs _ _)
    refine Runs.trans ?_ (cascade_runs _)
    exact (reach_runs s _).trans (.cabin _ _ (Cabin.failExchange_moves _ _ _ _))

theorem takeNodePage_runs (s : State) (d : Dock) (b : List Byte) : Runs s (s.takeNodePage d b) := by
  unfold takeNodePage
  split
  · exact .refl s
  · refine .ite (fun _ => .refl s) fun _ => .ite (fun _ => pageExpired_runs s d) fun _ => ?_
    refine Runs.trans ?_ (finish_runs _)
    refine Runs.trans ?_ (advance_runs _ _)
    exact Runs.trans (.cabin s _ (Cabin.takePage_moves _ _ _)) (cascade_runs _)

/-! ### The strip (R161 to R168) -/

theorem notify_runs (s : State) (x : Subject) (i : Option Indication) : Runs s (s.modCab fun c => c.notify x i) :=
  .cabin s _ (.notify _ _ _)

theorem endJog_runs (s : State) : Runs s (s.modCab Cabin.endJog) := .cabin s _ (Cabin.endJog_moves _)

theorem actOn_runs (s : State) (g : Gesture) (zone start : Nat) : Runs s (s.actOn g zone start) := by
  unfold actOn
  split
  · exact .refl s
  · next b i _ =>
    dsimp only
    split
    · refine .cabin s _ ?_
      split
      · exact (Cabin.admit_moves _ _).trans (Cabin.jog_moves _ _)
      · exact Cabin.admit_moves _ _
    · exact notify_runs s _ _

theorem endTouch_runs (s : State) : Runs s s.endTouch := .outside s s.port s.link _

theorem expireTouch_runs (s : State) (t : Touch) : Runs s (s.expireTouch t) := by
  refine Runs.trans (.outside s s.port s.link _) (.cabin _ _ ?_)
  exact .ite (fun _ => Cabin.endJog_moves _) fun _ => .refl _

theorem startTouch_runs (s : State) : Runs s s.startTouch :=
  Runs.trans (.outside s s.port s.link _) (leaveDoze_runs _)

theorem touchFrame_runs (s : State) (t : Touch) : Runs s (s.touchFrame t) := by
  unfold touchFrame
  dsimp only
  split
  · exact .refl s
  · exact .ite (fun _ => expireTouch_runs s _) fun _ => .outside s s.port s.link _
  · refine .ite (fun _ => expireTouch_runs s _) fun _ => .ite (fun _ => ?_) fun _ => .outside s s.port s.link _
    exact Runs.trans (.outside s s.port s.link _) (actOn_runs _ _ _ _)

theorem releaseTouch_runs (s : State) (t : Touch) : Runs s (s.releaseTouch t) := by
  unfold releaseTouch
  dsimp only
  split
  · exact endTouch_runs s
  · exact (endTouch_runs s).trans (endJog_runs _)
  · split
    · exact (endTouch_runs s).trans (actOn_runs _ _ _ _)
    · exact endTouch_runs s

theorem judgeTouch_runs (s : State) : Runs s s.judgeTouch := by
  unfold judgeTouch
  split
  · exact startTouch_runs s
  · exact .refl s
  · exact touchFrame_runs s _
  · exact releaseTouch_runs s _

theorem takeElectrodes_runs (s : State) (l : List Nat) : Runs s (s.takeElectrodes l) := .outside s s.port s.link _

theorem padAppears_runs (s : State) : Runs s s.padAppears := Runs.trans (.outside s s.port s.link _) (notify_runs _ _ _)

theorem padAnswered_runs (s : State) (l : List Nat) : Runs s (s.padAnswered l) :=
  .ite (fun _ => (takeElectrodes_runs s l).trans (judgeTouch_runs _)) fun _ => padAppears_runs s

theorem padLost_runs (s : State) : Runs s s.padLost := by
  unfold padLost
  dsimp only
  have h : Runs s (({ s with pad := { s.pad with present := false, unanswered := 5 } } : State).modCab fun c =>
      c.notify .strip (some .padAbsent)) := Runs.trans (.outside s s.port s.link _) (notify_runs _ _ _)
  split
  · exact h
  · exact .ite (fun _ => (h.trans (endTouch_runs _)).trans (endJog_runs _)) fun _ => h.trans (endTouch_runs _)

theorem padMissed_runs (s : State) : Runs s s.padMissed :=
  .ite (fun _ => .refl s) fun _ => .ite (fun _ => padLost_runs s) fun _ => .outside s s.port s.link _

theorem missPadAnswer_runs (s : State) : Runs s s.missPadAnswer :=
  .ite (fun _ => (((padMissed_runs s).trans (cascade_runs _)).trans (advance_runs _ _)).trans (finish_runs _))
    fun _ => .refl s

theorem takePadAnswer_runs (s : State) (b : List Byte) : Runs s (s.takePadAnswer b) := by
  unfold takePadAnswer
  split
  · refine .ite (fun _ => ?_) fun _ => .refl s
    exact (((padAnswered_runs s _).trans (cascade_runs _)).trans (advance_runs _ _)).trans (finish_runs _)
  · exact missPadAnswer_runs s

theorem fifthPadMiss_runs (s : State) : Runs s s.fifthPadMiss := .ite (fun _ => missPadAnswer_runs s) fun _ => .refl s

theorem touchLimit_runs (s : State) : Runs s s.touchLimit := by
  unfold touchLimit
  split
  · exact .refl s
  · refine .ite (fun _ => .refl s) fun _ => ?_
    refine Runs.trans ?_ (finish_runs _)
    exact (reach_runs s _).trans (expireTouch_runs _ _)

/-! ### Requests (R170) -/

theorem respond_runs (s : State) (b : IdentBinding) (k : Nat) (h : ReqHdr) (a : Answer) : Runs s (s.respond b k h a) :=
  .outside s _ s.link s.pad

theorem taken_runs (s : State) (stays : Bool) : Runs s (s.taken stays) := by
  unfold taken
  dsimp only
  split
  · exact .outside s _ s.link s.pad
  · exact (leaveDoze_runs s).trans (.outside _ _ _ _)

/-- A request runs the part as its rule does. -/
theorem receive_runs (s : State) (k : Nat) (h : ReqHdr) (stays : Bool) (rule : ReqClass → State → State × Answer)
    (hr : ∀ cls s, Runs s (rule cls s).1) : Runs s (s.receive k h stays rule) := by
  unfold receive
  dsimp only
  refine (quietWires_runs s).trans (.ite (fun _ => .refl _) fun _ => ?_)
  split
  · exact .refl _
  · refine .ite (fun _ => .outside _ _ _ _) fun _ => .ite (fun _ => respond_runs _ _ _ _ _) fun _ => ?_
    exact (((taken_runs _ _).trans (hr _ _)).trans (finish_runs _)).trans (respond_runs _ _ _ _ _)

theorem request_runs (s : State) (k : Nat) (h : ReqHdr) (rule : ReqClass → State → State × Answer) (stays : Bool)
    (hr : ∀ cls s, Runs s (rule cls s).1) : Runs s (s.request k h rule stays) := by
  refine receive_runs s k h stays _ fun cls s => ?_
  split
  · exact .refl s
  · exact hr cls s

theorem look_runs (s : State) (k : Nat) (h : ReqHdr) (rule : ReqClass → State → Answer) : Runs s (s.look k h rule) :=
  request_runs s k h _ false fun _ s => .refl s

theorem admitted_runs (s : State) (r : Except Answer Admission) : Runs s (s.admitted r).1 := by
  unfold admitted
  split
  · exact .refl s
  · exact .cabin s (fun c => c.admitOrder _) (Cabin.admit_moves _ _)

end State

end Sys2Proof.Machine
end

