-- ==== Sys2Proof/Tests/Slice0.lean ====
section
/-! SUPPORT. Tests: the spec's worked figures, the smoke test of WellFormed, and for every obligation with hypotheses a
witness that meets them, with a value for each of its clauses. -/

set_option Elab.async false

namespace Sys2Proof.Tests

open Sys2Proof Sys2Proof.Machine

/-! ### Helpers and small states -/

/-- The state after a command. -/
def after (i : Instr) (s : State) : Option State :=
  match exec i s with
  | .next t => some t
  | _ => none

/-- What a command leaves of a field. -/
def leaves {α : Type} (i : Instr) (s : State) (f : State → α) : Option α := (after i s).map f

/-- Code, detail and data of the last response queued. -/
def answer (i : Instr) (s : State) : Option (Code × Option Nat × List Nat) :=
  (after i s).bind fun t => t.port.queue.getLast?.map fun r => (r.code, r.detail, r.data.map (·.toNat))

/-- A request header of a class's default identifier. -/
def from_ (ident : Nat) : ReqHdr := ⟨ident, 7, 1, false⟩

def body : IdentBinding := ⟨1280, 1296, .body⟩
def gateway : IdentBinding := ⟨1282, 1298, .gateway⟩
def restraint : IdentBinding := ⟨1283, 1299, .restraint⟩
def service : IdentBinding := ⟨1284, 1300, .service⟩

/-- D1's unit of the spec's examples: a CAPTAIN of revision 2, its SLIDE at 600 counts (sections 6.2, 7). -/
def pages : List AxisPage :=
  [⟨.slide, 1200, 40, 30, 800, 1400, 4000, 600⟩, ⟨.recline, 800, 0, 40, 600, 1400, 4000, 0⟩,
    ⟨.tumble, 900, 0, 60, 600, 1400, 4000, 0⟩, ⟨.headrest, 240, 0, 15, 200, 1400, 3000, 0⟩]

def captain : Identity := ⟨.captain, 2, 77, 4, [.cushion, .back], true⟩

def slide : Axis := newAxis captainRev2 true ⟨.slide, 1200, 40, 30, 800, 1400, 4000, 600⟩

def recline : Axis := newAxis captainRev2 true ⟨.recline, 800, 0, 40, 600, 1400, 4000, 0⟩

def tumble : Axis := newAxis captainRev2 true ⟨.tumble, 900, 0, 60, 600, 1400, 4000, 0⟩

/-- A tuned channel at a raw count of 800. -/
def calm (k : ChanKind) : Chan := { newChan k with state := .none, filtered := some 800, ref16 := some 12800, comp := 650 }

def placed : PlacementCopy := ⟨defaultDockTable.d1, envelope builtInGeometry defaultDockTable.d1⟩

/-- D1's record, READY. -/
def seat : DockRec :=
  { emptyDock with
    state := .ready
    placement := some placed
    identity := some captain
    geometry := some captainRev2
    axes := pages.map (newAxis captainRev2 true)
    switches := some ⟨false, false⟩
    power := true
    chans := [calm .cushion, calm .back]
    occupancy := .none }

/-- The part with a record in D1, PARKED. -/
def withDock (r : DockRec) : State :=
  { State.reset with
    cab := State.reset.cab.setDock .d1 r
    port := { State.reset.port with parked := true } }

def seated : State := withDock seat

/-- The part with a poll's slot waiting for its answer until millisecond 1. -/
def polling (u : LinkSlot) (s : State) : State := { s with link := { s.link with left := [u], answerBy := some 1 } }

/-- A step of D1's SLIDE, and the order that holds it. -/
def step1 (k : StepKind) (target : Nat) (st : StepState) : Step :=
  { index := 1, dock := .d1, axis := .slide, kind := k, target := target, cls := .stowing, state := st, blocker := none
    waitStart := none, holds := false, stopCause := none, failure := none, fold := false, claimFrom := 600, obstruction := none }

def order1 (x : Step) : Order :=
  { slot := .s0, number := 1, origin := .cls .body, kind := .single, layout := none, urgency := .comfort, steps := [x]
    state := .active, cancelTaken := false, superseded := [], firstFailure := none }

/-- The part with an order in slot 0 and a record in D1. -/
def ordered (o : Order) (r : DockRec) : State :=
  let s := withDock r
  { s with cab := { s.cab with pool :=
    ⟨s.cab.pool.recs.set .s0 (some o), [.s1, .s2, .s3, .s4, .s5, .s6, .s7], [.s0], 2, none⟩ } }

/-- The move of that step as it is granted, with a stall timer. -/
def move1 (k : StepKind) (target : Nat) (stall : Timer) : Move :=
  { newMove defaultLimits slide.auto slide ⟨1, 1⟩ k target with stall := stall }

/-- D1's record with its SLIDE driven by a move and at a count. -/
def moving (m : Move) (count : Nat) : DockRec :=
  { seat with axes := seat.axes.map fun a =>
    if a.kind = .slide then { a with cond := .driven, move := some m, count := count } else a }

/-- The state of the step of order 1. -/
def stepOf (c : Cabin) : Option StepState := (c.pool.recs.get .s0).bind fun o => (o.steps[0]?).map (·.state)

/-! ### From checks to the invariants -/

theorem takes_of {s : State} {h : ReqHdr} {b : IdentBinding}
    (hyps : (s.port.power ≠ .sleep ∧ s.cab.set.identifiers.binding? h.ident = some b) ∧
      (s.port.queue.length < 8 ∧ s.port.resetting = false) ∧ (h.short = false ∧ h.profile ≤ 4) ∧ s.cab.agenda = []) :
    s.Takes h b :=
  ⟨hyps.1.1, hyps.1.2, hyps.2.1.1, hyps.2.1.2, hyps.2.2.1.1, hyps.2.2.1.2, hyps.2.2.2⟩

theorem layouts_sound_of {t : LayoutTable}
    (hyps : ((t.live.map (·.number)).Pairwise (· < ·) ∧ ∀ l ∈ t.live, 1 ≤ l.number ∧ l.number ≤ 24) ∧
      ((∀ n ∈ factoryNumbers, ∃ l ∈ t.live, l.number = n) ∧ (t.live.map (·.label)).Nodup) ∧
      (t.dirty.Pairwise (· < ·) ∧ ∀ n ∈ t.dirty, 1 ≤ n ∧ n ≤ 24)) : t.Sound :=
  ⟨hyps.1.1, hyps.1.2, hyps.2.1.1, hyps.2.1.2, hyps.2.2.1, hyps.2.2.2⟩

theorem named_of {p : Pool} (hyp : ∀ s ∈ Slot.all, (p.recs.get s).all (fun o => decide (o.slot = s)) = true) : p.Named := by
  intro s o ho
  have := hyp s (by cases s <;> decide)
  simpa [ho] using this

theorem numbered_of {p : Pool}
    (hyps : ((∀ s ∈ p.active, (p.recs.get s).isSome = true) ∧ (p.active.map fun s => (p.recs.get s).map (·.number)).Nodup) ∧
      (∀ s ∈ p.active, (p.recs.get s).all (fun o => decide (1 ≤ o.number ∧ o.number ≤ 65535)) = true) ∧
      (1 ≤ p.next ∧ p.next ≤ 65535)) : p.Numbered :=
  ⟨hyps.1.1, hyps.1.2, fun s hs o ho => by simpa [ho] using hyps.2.1 s hs, hyps.2.2⟩

theorem map_sound_of {m : CellMap}
    (hyps : m.cells.length = 288 ∧ ∀ h ∈ Holder.all, ∀ x ∈ Cell.all, (m.listed.get h).mem x = true →
      (m.holderOf x).any (fun g => decide (g ≠ h)) = true) : m.Sound := by
  refine ⟨hyps.1, fun h x hx => ?_⟩
  have hh : h ∈ Holder.all := by rcases h with (_ | _ | _ | _ | _) | _ | _ <;> decide
  have := hyps.2 h hh x (Cell.mem_all x) hx
  revert this
  cases m.holderOf x with
  | none => simp
  | some g => intro hg; exact ⟨g, rfl, by simpa using hg⟩

theorem layouts_sound : State.reset.cab.layouts.Sound := layouts_sound_of (by decide +kernel)

theorem pool_parted (o : Order) (r : DockRec) : (ordered o r).cab.pool.Parted := by
  show ([Slot.s1, .s2, .s3, .s4, .s5, .s6, .s7] ++ [Slot.s0]).Perm Slot.all
  decide

/-! ### Worked figures of the spec -/

/-- R179 on a store as delivered, every latch open: the part just after reset. -/
theorem test_power_on_on_reset : (after (.powerOn []) State.reset) = some State.reset := by decide +kernel

/-- R178, R179: a LIMITS record whose check fails loads its defaults and is due. -/
theorem test_power_on_bad_limits :
    leaves (.powerOn [.settings .limits]) State.reset (fun t => (t.cab.set.limits, t.store.due)) =
      some (defaultLimits, [.limits]) := by decide +kernel

/-- R103's table. -/
theorem test_effective_budget : effectiveBudget 240 108 = 144 ∧ effectiveBudget 80 91 = 2 ∧ effectiveBudget 400 119 = 386 ∧
    effectiveBudget 240 112 = 176 ∧ effectiveBudget 400 90 = 0 := by decide

/-- R34: the sizes of the envelopes and full-reach unions of the default tables. -/
theorem test_envelope_sizes :
    [defaultDockTable.d1, defaultDockTable.d2, defaultDockTable.d3, defaultDockTable.d4, defaultDockTable.d5].map
      (fun p => (envelope builtInGeometry p).card) = [43, 32, 43, 19, 19] ∧
    ((fullReach captainRev2 defaultDockTable.d1).card, (fullReach centreRev1 defaultDockTable.d2).card,
      (fullReach thirdRev1 defaultDockTable.d4).card) = (81, 69, 19) := by decide +kernel

/-- R35's table. -/
theorem test_stations : [0, 359, 360, 500, 719, 720, 900].map (stationOf captainRev2.base 900) = [0, 0, 1, 1, 1, 2, 2] := by
  decide

/-- R80's examples. -/
theorem test_target_counts : slide.targetCount captainRev2 150 = 600 ∧ tumble.targetCount captainRev2 1 = 360 ∧
    tumble.targetCount captainRev2 2 = 900 := by decide

/-- R119's example and its two ends. -/
theorem test_auto_profile : autoProfile 1200 800 = ⟨150, 37, 25, 800⟩ ∧ (autoProfile 16 800).ramp = 8 ∧
    (autoProfile 16 800).creep = 4 ∧ (autoProfile 60000 800).ramp = 400 ∧ (autoProfile 60000 800).creep = 64 := by decide

/-- R122's table: creep, rem, ramp and cruise by distance. -/
theorem test_segments : [1000, 337, 260, 50, 38, 20].map (fun d =>
      let m := newMove defaultLimits ⟨150, 37, 25, 800⟩ { slide with count := 0 } ⟨1, 1⟩ .move d
      (m.creepEff, m.rem, m.rampEff, m.cruise)) =
    [(37, 963, 150, 663), (37, 300, 150, 0), (37, 223, 111, 1), (37, 13, 6, 1), (37, 1, 0, 1), (20, 0, 0, 0)] := by decide

/-- The worked profile of a short slide move: setpoints by progress. -/
theorem test_setpoints : [0, 2, 37, 74, 110, 111, 112, 150, 200, 222, 223, 249].map ((move1 .move 340 none).setpointAt 800 200) =
    [200, 210, 400, 600, 794, 800, 800, 594, 324, 205, 200, 200] := by decide

/-- The same worked profile's arrival: the frame that reports 342 ends the move, and D1's SLIDE settles at 342. -/
theorem test_arrival :
    leaves (.dockPollAnswered .d1 (encodeStatus .d1 [342, 0, 0, 0] 1400 0 ⟨false, false⟩ [800, 800, 800]))
      (polling (.dock .d1) (ordered (order1 (step1 .move 340 .running)) { moving (move1 .move 340 none) 351 with
        axes := (moving (move1 .move 340 none) 351).axes.map fun a => if a.kind = .slide then { a with nodeCount := 351 } else a }))
      (fun t => ((t.cab.dock .d1).command, ((t.cab.axis? .d1 .slide).map fun a => (a.count, a.cond)),
        (t.cab.pool.recs.get .s0).map (·.state), t.cab.pool.active)) =
    some (.brake, some (342, .settling), some .done, []) := by decide +kernel

/-- The tuning search of chapter 8's worked sequence: the compensations, then F 799 and L16 12784. -/
theorem test_tuning_search :
    (([640, 930, 790, 850, 818, 803, 797, 800, 799, 801].map fun r => (r : Nat)).foldl
      (fun p r => let c := (p.1 : Chan).take defaultLimits 0 false false r; (c, p.2 ++ [c.comp])) (newChan .back, [])).2 =
    [768, 640, 704, 672, 656, 648, 652, 650, 651, 650] ∧
    (let c := { newChan .back with comp := 650, adjusted := 10 }.take defaultLimits 0 false false 799;
      (c.state, c.filtered, c.ref16) = (.none, some 799, some 12784)) := by decide

/-- R163's example. -/
theorem test_strip_position : stripPosition 30 0 ([0, 120, 360, 40].map fun d => { calm .strip with delta := d }) = 156 := by
  decide

/-- R181's check value on the digits 1 to 9, the standard value of its parameters. -/
theorem test_check_value : crc16 [0x31, 0x32, 0x33, 0x34, 0x35, 0x36, 0x37, 0x38, 0x39] = 0x29B1#16 := by decide +kernel

/-- R145's example: means of 1500 and then 1300 mA on a baseline of 1400. -/
theorem test_baseline_learning : learnOne false 1400 (3000, 2) = 1412 ∧ learnOne false 1412 (1300, 1) = 1398 := by decide

/-- R149's example: an F of 799 and a raw count of 770. -/
theorem test_presence_filter : filterCount 799 770 128 = 784 := by decide

/-- R49: on an empty map every cell of a lane is FREE and unlisted. -/
theorem test_query_cells : answer (.queryCells (from_ 1280) 1) State.reset = some (.ok, none, List.replicate 48 0) := by
  decide +kernel

/-- R57: the six FACTORY numbers. -/
theorem test_list_layouts : answer (.listLayouts (from_ 1281) .all) State.reset = some (.ok, none, [1, 2, 3, 4, 5, 6]) := by
  decide +kernel

/-- R60: a FACTORY number is PROTECTED from SERVICE too. -/
theorem test_retire_factory : answer (.retireLayout (from_ 1284) 6) State.reset = some (.protected_, none, []) := by
  decide +kernel

/-- R73, R78: FLAT-FLOOR with no unit docked is NO_MATCH, so its invocation is DOCK_NOT_READY. -/
theorem test_invoke_nothing_docked : answer (.invokeLayout (from_ 1280) 4 none none) State.reset =
    some (.dockNotReady, none, []) := by decide +kernel

/-- R83 with the worked slide move: order 1 in slot 0 with one step, COMFORT. -/
theorem test_move_axis : answer (.moveAxis (from_ 1280) 1 0 85 none) seated = some (.ok, none, [0, 1, 0, 1, 0]) := by
  decide +kernel

/-- R133: part 0 of D1's posture out of five, D1 being number 1. -/
theorem test_lookup_posture : (answer (.lookupPosture (from_ 1283) 1 none) seated).map (fun a => a.2.2.take 3) =
    some [0, 5, 1] := by decide +kernel

/-- R102: 30 is taken as 80, at a stale voltage E is 0, and nothing is held. -/
theorem test_set_budget : answer (.setBudget (from_ 1284) 30) State.reset = some (.ok, none, [0, 80, 0, 0, 0, 0]) := by
  decide +kernel

/-- R151: a prox threshold of 80 raises the CUSHION's touch threshold to 81. -/
theorem test_set_limits_prox :
    leaves (.setLimits (from_ 1284) (.prox .cushion 80)) State.reset (fun t => t.cab.set.limits.cushion) =
      some ⟨80, 81, 15⟩ := by decide +kernel

/-- R120: a RAMP of 5 is taken as 8. -/
theorem test_set_override : answer (.setOverride (from_ 1284) 0 0 0 (some 5)) State.reset = some (.ok, none, [0, 8]) := by
  decide +kernel

/-- R166: a TAP without a zone is the first faulty binding. -/
theorem test_write_bindings : answer (.writeBindings (from_ 1284) [⟨0, none, 0, 1⟩]) State.reset =
    some (.badArgument, some 1, []) := by decide +kernel

/-- R170: a request of an unknown kind, and one too short. -/
theorem test_bad_requests : answer (.badRequest (from_ 1280) 99) State.reset = some (.badRequest, none, []) ∧
    answer (.lookupMatch ⟨1280, 7, 0, true⟩) State.reset = some (.badArgument, none, []) := by decide +kernel

/-- R3: both latches of D1 read closed; it is SEATING, FRESH, with a settle timer of 200 ms and its 43 cells. -/
theorem test_latch_closed :
    leaves (.latchClosed .d1) State.reset (fun t => ((t.cab.dock .d1).state, (t.cab.dock .d1).origin, (t.cab.dock .d1).settle,
      (t.cab.map.heldBy (.dock .d1)).card)) = some (.seating, some .fresh, some 200, 43) := by decide +kernel

/-- R4, R10: a latch of a READY dock opens; it is VACATING with dock power off and 5 s of hold. -/
theorem test_latch_open :
    leaves (.latchOpen .d1 .a) { seated with latchA := .rep true, latchB := .rep true }
      (fun t => ((t.cab.dock .d1).state, (t.cab.dock .d1).power, (t.cab.dock .d1).hold)) =
    some (.vacating, false, some 5000) := by decide +kernel

/-- R14: the brake command to a READY D1, lamp OFF, compensations 650, 650 and 512. -/
theorem test_drive_frame :
    leaves .pollRound { seated with link := { seated.link with left := [] } }
      (fun t => t.link.tx.map fun f => (f.take 14).map (·.toNat)) =
    some [[1, 0, 0, 0, 0, 0, 0, 0, 2, 138, 2, 138, 2, 0]] := by decide +kernel

/-- R47: 250 mm is columns 0 to 2 of six tiers, 18 cells; 101 mm is two columns. -/
theorem test_intrusion :
    leaves (.intrusionFrame [250, 101]) State.reset (fun t => ((t.cab.map.heldBy .frontL).card, (t.cab.map.heldBy .frontR).card)) =
      some (18, 12) := by decide +kernel

/-- R171: gear PARK at 2.9 km/h is PARKED, at 3.0 km/h it is not. -/
theorem test_parked :
    leaves (.vehicleStateFrame [0, 29, 0, 126]) State.reset (fun t => (t.port.parked, t.cab.arb.budget)) = some (true, 240) ∧
    leaves (.vehicleStateFrame [0, 30, 0, 126]) State.reset (fun t => t.port.parked) = some false := by decide +kernel

/-- R130: a homing stall leaves D1's SLIDE REFERENCED at count 0 and the order DONE. -/
theorem test_homing_stall :
    leaves (.stallTimerExpiry .d1) (ordered (order1 (step1 .homing 0 .running)) (moving (move1 .homing 0 (some 0)) 40))
      (fun t => ((t.cab.axis? .d1 .slide).map fun a => (a.count, a.ref), (t.cab.pool.recs.get .s0).map (·.state))) =
    some (some (0, .referenced), some .done) := by decide +kernel

/-- R110: no motion in the start window fails the order. -/
theorem test_start_window :
    leaves (.startWindowExpiry .d1)
      (let s := ordered (order1 (step1 .move 340 .starting)) (moving (move1 .move 340 none) 600);
        { s with cab := { s.cab with arb := { s.cab.arb with window := s.cab.arb.window.set .d1 (some 400) } } })
      (fun t => (t.cab.pool.recs.get .s0).map fun o => (o.state, o.firstFailure.map (·.reason))) =
    some (some (.failed, some .noMotion)) := by decide +kernel

/-- R161: the pad's first answered poll makes it PRESENT with four electrodes in TUNING. -/
theorem test_pad_present :
    leaves (.padPollAnswered (encodePad [800, 800, 800, 800])) State.reset
      (fun t => (t.pad.present, t.pad.electrodes.map (·.state))) = some (true, List.replicate 4 .tuning) := by decide +kernel

/-- R176: the network sleep frame, with nothing going on. -/
theorem test_sleep : leaves .networkSleepFrame State.reset (fun t => (t.port.power, t.link.left)) = some (.sleep, []) := by
  decide +kernel

/-- The queue: step takes the front command, and an empty queue lets a millisecond pass (log 6). -/
theorem test_step : (match step { State.reset with pending := [.canWake, .padWake] } with
      | .next t => some t.pending
      | _ => none) = some [.padWake] ∧
    (match step State.reset with
      | .next t => some (t.cab.now, t.pending)
      | _ => none) = some (1, [.padPollUnanswered]) := by decide +kernel

/-- R182, section 11.4: request frames written out by hand. WRITE_LAYOUT carries its number, the label of a length and 12
characters, owner, urgency default, entry count, and one entry: D1, ANY, SLIDE to 150 mm and RECLINE to station 1. -/
theorem test_request_frames :
    decodeRequest 1280 [4, 7, 1, 0, 4, 77, 73, 78, 69, 0, 0, 0, 0, 0, 0, 0, 0, 1, 0, 1, 0x10, 0x03, 0, 150, 1] =
      .writeLayout (from_ 1280) 0 ⟨labelOf "MINE", 1, 0, [⟨1, 0, [(0, 150), (1, 1)]⟩]⟩ ∧
    decodeRequest 1280 [6, 7, 1, 5, 255, 255, 1] = .invokeLayout (from_ 1280) 5 none (some 1) ∧
    decodeRequest 1280 [7, 7, 1, 1, 0, 0, 85, 255] = .moveAxis (from_ 1280) 1 0 85 none ∧
    decodeRequest 1284 [18, 7, 1, 1, 0x2C] = .setBudget (from_ 1284) 300 ∧
    decodeRequest 1284 [19, 7, 1, 0, 0, 61] = .setLimits (from_ 1284) (.blockWait 61) ∧
    decodeRequest 1283 [11, 7, 1, 0, 5, 1] = .lookupOrder (from_ 1283) 5 (some 1) ∧
    decodeRequest 1283 [11, 7, 1, 0, 5] = .lookupOrder (from_ 1283) 5 none := by decide +kernel

/-- R170, R181: bytes past the last field are ignored, a frame shorter than its fixed fields is short, and so is one whose entries are
cut off; a label past 12 characters is one no record has. -/
theorem test_request_frame_ends :
    decodeRequest 1280 [3, 7, 1, 9, 9] = .lookupMatch (from_ 1280) ∧
    decodeRequest 1280 [9, 7, 1, 5] = .cancelOrder ⟨1280, 7, 1, true⟩ 1280 ∧
    (headerOf? (decodeRequest 1280 [4, 7, 1, 0, 4, 77, 73, 78, 69, 0, 0, 0, 0, 0, 0, 0, 0, 1, 0, 1, 0x10, 0x03, 0, 150])).map
      (·.short) = some true ∧
    (match decodeRequest 1280 [1, 7, 1, 13, 77, 73, 78, 69, 77, 73, 78, 69, 77, 73, 78, 69] with
      | .lookupLabel _ l => labelOk l
      | _ => true) = false ∧
    decodeRequest 1280 [25, 7, 1] = .badRequest (from_ 1280) 25 := by decide +kernel

/-- R169, R170: what a frame is by its identifier; with 8 responses waiting a request is discarded; in SLEEP it is a wake. -/
theorem test_frames_by_identifier :
    State.reset.frameCommand? ⟨1280, [3, 7, 1]⟩ = some (.lookupMatch (from_ 1280)) ∧
    State.reset.frameCommand? ⟨2047, [3, 7, 1]⟩ = none ∧
    ({ State.reset with port := { State.reset.port with queue := List.replicate 8 ⟨1296, 0, 7, .ok, none, true, []⟩ } } : State).frameCommand?
      ⟨1280, [3, 7, 1]⟩ = some (.requestDiscarded (from_ 1280)) ∧
    ({ State.reset with port := { State.reset.port with power := .sleep } } : State).frameCommand? ⟨1280, [3, 7, 1]⟩ =
      some .canWake := by decide +kernel

/-- R114's table order in the axis state byte: ENABLED is 0, DISABLED 1, in bit 2 (section 11.2). -/
theorem test_state_byte : slide.stateByte = 0 ∧ { slide with enabled := false }.stateByte = 4 ∧
    { slide with ref := .referenceFault, cond := .settling }.stateByte = 18 := by decide +kernel

/-- The content of an ORDER notice (section 11.2): 20 bytes and two for each step, so 60 for an order of 20 steps. -/
theorem test_order_notice_length (o : Order) : (orderNotice o).length = 20 + 2 * o.steps.length := by
  have h (x : Option Nat) : (optWord x).length = 2 := by cases x <;> simp [optWord, wordOf]
  have hs (l : List Step) : (l.flatMap fun s => [byteOf s.state.code, byteOf (blockerByte s.blocker)]).length = 2 * l.length := by
    induction l with
    | nil => rfl
    | cons a l ih => simp [ih]; omega
  simp [orderNotice, wordOf, failureBytes, h, hs]
  omega

/-! ### WellFormed: an ill-formed term for each check -/

theorem test_ill_formed_headers : (Instr.lookupMatch ⟨1280, 256, 0, false⟩).wf = false ∧
    (Instr.lookupMatch ⟨1280, 0, 256, false⟩).wf = false ∧ (Instr.lookupMatch (from_ 1280)).wf = true := by decide

theorem test_ill_formed_requests :
    (Instr.lookupLayout (from_ 1280) 256).wf = false ∧ (Instr.lookupLabel (from_ 1280) [256]).wf = false ∧
    (Instr.invokeLayout (from_ 1280) 1 (some 65536) none).wf = false ∧
    (Instr.invokeLayout (from_ 1280) 1 none (some 255)).wf = false ∧
    (Instr.moveAxis (from_ 1280) 1 0 65536 none).wf = false ∧ (Instr.homing (from_ 1280) 256 none).wf = false ∧
    (Instr.cancelOrder (from_ 1280) 65536).wf = false ∧ (Instr.lookupOrder (from_ 1280) 1 (some 255)).wf = false ∧
    (Instr.lookupPosture (from_ 1280) 256 none).wf = false ∧ (Instr.badRequest (from_ 1280) 24).wf = false ∧
    (Instr.badRequest (from_ 1280) 25).wf = true := by decide

theorem test_ill_formed_settings :
    (Instr.writeGeometry (from_ 1284) 0 256 none).wf = false ∧ (Instr.writeDockTable (from_ 1284) [⟨0, 256, 0, 0⟩]).wf = false ∧
    (Instr.setOverride (from_ 1284) 0 0 0 (some 65536)).wf = false ∧ (Instr.setBudget (from_ 1284) 65536).wf = false ∧
    (Instr.writeBindings (from_ 1284) [⟨256, none, 0, 1⟩]).wf = false ∧ (Instr.reseed (from_ 1284) 256 0).wf = false ∧
    (Instr.reseedBaseline (from_ 1284) 1 256).wf = false := by decide

theorem test_ill_formed_contents :
    (Instr.writeLayout (from_ 1280) 0 ⟨[256], 0, 0, []⟩).wf = false ∧ (Instr.writeLayout (from_ 1280) 0 ⟨[65], 256, 0, []⟩).wf = false ∧
    (Instr.writeLayout (from_ 1280) 0 ⟨[65], 0, 256, []⟩).wf = false ∧
    (Instr.writeLayout (from_ 1280) 0 ⟨[65], 0, 0, [⟨16, 0, []⟩]⟩).wf = false ∧
    (Instr.writeLayout (from_ 1280) 0 ⟨[65], 0, 0, [⟨1, 16, []⟩]⟩).wf = false ∧
    (Instr.writeLayout (from_ 1280) 0 ⟨[65], 0, 0, [⟨1, 0, [(8, 0)]⟩]⟩).wf = false ∧
    (Instr.writeLayout (from_ 1280) 0 ⟨[65], 0, 0, [⟨1, 0, [(0, 65536)]⟩]⟩).wf = false := by decide

theorem test_ill_formed_events :
    (Instr.powerOn [.layout 25]).wf = false ∧ (Instr.powerOn [.layout 0]).wf = false ∧
    (Instr.vehicleStateFrame (List.replicate 65 0)).wf = false ∧ (Instr.nodePage .d1 (List.replicate 65 0)).wf = false ∧
    (Instr.blockWaitExpiry .s0 0).wf = false ∧ (Instr.blockWaitExpiry .s0 21).wf = false ∧
    (Instr.blockWaitExpiry .s0 20).wf = true := by decide

/-! ### Witnesses: the machine -/

/-- The request hypotheses of the statements about requests: `Takes`, for each class that has a rule of its own, in a state with an
empty Layout Table of the user's and in one with D1 READY. -/
theorem witness_takes : State.reset.Takes (from_ 1280) body ∧ State.reset.Takes (from_ 1282) gateway ∧
    State.reset.Takes (from_ 1283) restraint ∧ State.reset.Takes (from_ 1284) service ∧ seated.Takes (from_ 1280) body ∧
    seated.Takes (from_ 1284) service :=
  ⟨takes_of (by decide +kernel), takes_of (by decide +kernel), takes_of (by decide +kernel), takes_of (by decide +kernel),
    takes_of (by decide +kernel), takes_of (by decide +kernel)⟩

theorem witness_StepRunsTheFrontCommand :
    ({ State.reset with pending := [.canWake, .padWake] } : State).pending = .canWake :: [.padWake] := rfl

/-- Every timer there is falls due at the coming millisecond, with D1's slot waiting, a boundary and a settings record due. -/
def dueNow : State :=
  let at_ : Timer := some 10000
  let r : DockRec := { moving (move1 .move 340 at_) 500 with
    settle := at_, powerUp := at_, pageLimit := at_, silence := at_, hold := at_
    chans := [{ calm .cushion with suppression := at_ }, calm .back] }
  let s := ordered (order1 { step1 .move 340 .claiming with waitStart := some 2000 })
    { r with axes := r.axes.map fun a => if a.kind = .slide then { a with suppression := at_ } else a }
  { s with
    cab := { s.cab with
      now := 9999
      pool := { s.cab.pool with grace := at_ }
      streams := s.cab.streams.set .d1 at_
      arb := { s.cab.arb with
        requests := s.cab.arb.requests.set .d1 (some ⟨⟨1, 1⟩, 0, 30, 10000⟩)
        window := s.cab.arb.window.set .d1 at_ } }
    port := { s.port with fresh := at_, quiet := at_ }
    intrusion := at_
    pad := ⟨true, 0, [calm .strip, calm .strip, calm .strip, { calm .strip with suppression := at_ }], none⟩
    link := { s.link with left := [.dock .d1], answerBy := at_, boundary := 10000 }
    store := { s.store with due := [.bindings] } }

/-- What the idle part queues at a millisecond. -/
def queuedBy (s : State) : Option (List Instr) :=
  match step s with
  | .next t => some t.pending
  | _ => none

/-- Each timer at its moment, and a reset, a layout write and the pad's slot, which that state shuts out. -/
theorem witness_AnEmptyQueueLetsAMillisecondPass :
    queuedBy dueNow = some [.vehicleStateStale, .intrusionStale, .quietTimerExpiry, .pauseGraceExpiry, .settleExpiry .d1,
      .powerUpDelayExpiry .d1, .pageLimitExpiry .d1, .silenceExpiry .d1, .holdExpiry .d1, .startWindowExpiry .d1,
      .grantWaitExpiry .d1, .stallTimerExpiry .d1, .streamTimerExpiry .d1, .referenceSuppressionExpiry .d1 .slide,
      .presenceSuppressionExpiry (.seat .d1 .cushion), .blockWaitExpiry .s0 1, .presenceSuppressionExpiry (.strip 3),
      .dockPollUnanswered .d1, .pollRound, .settingsWriteBegin] ∧
    queuedBy { dueNow with cab := { dueNow.cab with now := 9998 } } = some [.settingsWriteBegin] ∧
    queuedBy { State.reset with port := { State.reset.port with resetting := true } } =
      some [.padPollUnanswered, .softResetCompletion []] ∧
    queuedBy { State.reset with cab := { State.reset.cab with layouts := { State.reset.cab.layouts with dirty := [7] } } } =
      some [.padPollUnanswered, .layoutWriteBegin] := by decide +kernel

theorem witness_SettingsChangeByWritesAlone : Instr.padWake.movesLatch = false ∧ Instr.padWake.resets = false ∧
    Instr.padWake.writesSettings = false ∧ Instr.padWake.endsWrite = false ∧ ∃ t, exec .padWake State.reset = .next t :=
  ⟨rfl, rfl, rfl, rfl, _, rfl⟩

/-- A state that meets every invariant and steps. -/
theorem witness_EveryStepKeeps : State.reset.cab.map.Sound ∧ State.reset.cab.arb.Fits ∧ State.reset.cab.pool.Parted ∧
    State.reset.cab.pool.Named ∧ State.reset.cab.pool.Numbered ∧ State.reset.HeldRightly ∧ State.reset.QuietRightly ∧
    State.reset.port.Bounded ∧ NoticesOnce State.reset.cab.notices ∧ ∃ t, step State.reset = .next t := by
  refine ⟨map_sound_of (by decide +kernel), by unfold Arbiter.Fits; decide +kernel, ?_, named_of (by decide +kernel),
    numbered_of (by decide +kernel), by unfold State.HeldRightly; decide +kernel, by unfold State.QuietRightly; decide +kernel,
    by unfold Port.Bounded; decide +kernel, by unfold NoticesOnce; decide +kernel, _, rfl⟩
  show (Slot.all ++ []).Perm Slot.all
  decide

/-- A dock locked and one not; a reset that waits with the store idle, one that waits for it, and none waiting. -/
theorem witness_PowerOnLoadsEverything :
    (({ State.reset with latchA := State.reset.latchA.set .d1 true, latchB := State.reset.latchB.set .d1 true } : State).latchA.get .d1 &&
      ({ State.reset with latchA := State.reset.latchA.set .d1 true, latchB := State.reset.latchB.set .d1 true } : State).latchB.get .d1)
      = true ∧ (State.reset.latchA.get .d2 && State.reset.latchB.get .d2) = false ∧
    ({ State.reset with port := { State.reset.port with resetting := true } } : State).port.resetting = true ∧
    State.reset.store.writing = none ∧ State.reset.port.resetting = false ∧
    ({ State.reset with store := { State.reset.store with writing := some (.layout 7 none) } } : State).store.writing.isSome = true := by
  decide +kernel

/-- SERVICE and another class; a second request while the reset waits. -/
theorem witness_SoftResetWaitsForTheStore : service.cls = .service ∧ body.cls ≠ .service ∧
    leaves (.softReset (from_ 1284)) State.reset (fun t => (t.port.power, t.cab.set.identifiers.binding? 1280)) =
      some (.awake, some body) := by decide +kernel

/-! ### Witnesses: frames and the map -/

/-- Every field at the largest value it has room for. -/
theorem witness_StatusFramesRoundTrip :
    decodeStatus .d5 (encodeStatus .d5 [65535, 65535, 65535, 65535] 65535 7 ⟨true, true⟩ [4095, 4095, 4095]) =
      some ⟨[65535, 65535, 65535, 65535], 65535, true, ⟨true, true⟩, [4095, 4095, 4095]⟩ ∧
    decodePad (encodePad [4095, 0, 4095, 0]) = some [4095, 0, 4095, 0] ∧
    (∀ i ∈ [Instr.lookupLayout (from_ 1280) 255, .lookupLabel (from_ 1280) (labelOf "EGRESS-R"), .listLayouts (from_ 1280) (.profile 4),
      .lookupMatch (from_ 1280), .writeLayout (from_ 1280) 255 ⟨List.replicate 12 255, 255, 255, [⟨15, 15, [(0, 65535), (7, 255)]⟩]⟩,
      .invokeLayout (from_ 1280) 0 (some 65534) (some 254), .moveAxis (from_ 1280) 255 255 65535 none, .homing (from_ 1280) 255 none,
      .cancelOrder (from_ 1280) 65535, .lookupOrder (from_ 1280) 65535 none, .lookupPosture (from_ 1280) 255 (some 254),
      .writeGeometry (from_ 1284) 255 255 (some ⟨some 65534, some [⟨65535, [⟨-1, 7, 7⟩, ⟨2, 0, 0⟩], true⟩], none, some [], some []⟩),
      .writeDockTable (from_ 1284) (List.replicate 5 ⟨255, 255, 255, 255⟩), .setOverride (from_ 1284) 255 255 255 none,
      .setBudget (from_ 1284) 65535, .setLimits (from_ 1284) (.identifier 15 (some ⟨65534, 65535, 255⟩)),
      .setLimits (from_ 1284) (.hysteresis .strip 65535), .setLimits (from_ 1284) (.unknown 36),
      .writeBindings (from_ 1284) [⟨255, some 254, 255, 255⟩], .ackRestart (from_ 1280), .badRequest (from_ 1280) 25],
      carried i = true ∧ State.reset.cab.set.identifiers.binding? ((headerOf? i).elim 0 (·.ident)) ≠ none) := by decide +kernel

theorem witness_NodePagesRoundTrip :
    (decodePage .d5 (encodePage .d5 ⟨true, true, true, .base ⟨.third, 255, 4294967295, 255, [.cushion, .back, .lid], true⟩⟩)).isSome =
      true ∧
    (decodePage .d1 (encodePage .d1 ⟨false, true, false, .axis ⟨.well, 65535, 255, 255, 65535, 65535, 65535, 65535⟩⟩)).isSome = true := by
  decide +kernel

def cellA : Cell := ⟨.left, 0, 0⟩
def cellB : Cell := ⟨.left, 1, 0⟩
def cellC : Cell := ⟨.left, 2, 0⟩
def cellD : Cell := ⟨.right, 15, 5⟩

/-- D2 holds A and B, D1 holds C and lists B, FRONT_L lists B too; D is FREE. -/
def crowded : CellMap :=
  { cells := [some (.dock .d2), none, none, none, none, none, some (.dock .d2), none, none, none, none, none, some (.dock .d1)] ++
      List.replicate 275 none
    listed := ((PerHolder.rep CellSet.empty).set (.dock .d1) ⟨64⟩).set .frontL ⟨64⟩
    reserved := .rep none }

theorem crowded_sound : crowded.Sound := map_sound_of (by decide +kernel)

/-- For an install of A to D by D1: a cell FREE, one held, one listed, one another holder's; a claim that succeeds and one
that fails; trims that hand a cell on and free one. -/
theorem witness_map_operations :
    (crowded.holderOf cellD = none ∧ crowded.holderOf cellC = some (.dock .d1) ∧
      (crowded.listed.get (.dock .d1)).mem cellB = true ∧ crowded.holderOf cellA = some (.dock .d2) ∧
      (crowded.listed.get (.dock .d1)).mem cellA = false ∧ (CellSet.ofList [cellA, cellB, cellC, cellD]).mem cellA = true ∧
      (CellSet.ofList [cellA]).mem cellB = false) ∧
    (crowded.claim .d1 (.ofList [cellB, cellC, cellD])).isOk = true ∧ (crowded.claim .d1 (.ofList [cellA])).isOk = false ∧
    (crowded.holderOf cellB = some (.dock .d2) ∧ (crowded.listed.get (.dock .d1)).mem cellB = true ∧
      (crowded.listed.get .frontL).mem cellB = true ∧ (Holder.dock .d1).num ≤ Holder.frontL.num) ∧
    (∀ g ∈ Holder.all, (crowded.listed.get g).mem cellC = false) := by decide +kernel

/-! ### Witnesses: positions, targets and moves -/

theorem witness_StationIsTheLargestReached : tableOk captainRev2.base = true ∧ stationOf captainRev2.base 900 719 < 2 ∧
    (captainRev2.base[2]?).isSome = true ∧ 0 < 900 := by decide +kernel

/-- A non-slide axis and a slide, with a target below the end of travel and one at it. -/
theorem witness_StationTargetIsItsFirstCount : tumble.kind ≠ .slide ∧ tableOk (captainRev2.table tumble.kind) = true ∧
    boundariesApart (captainRev2.table tumble.kind) tumble.travel = true ∧ 16 ≤ tumble.travel ∧
    slide.kind = .slide ∧ slide.targetCount captainRev2 150 < slide.travel ∧ slide.targetCount captainRev2 300 = slide.travel := by
  decide +kernel

/-- The worked case of chapter 2: D1 with its SLIDE at 150 mm covers 21 cells, the sweep to 0 mm 27, at 0 mm 15; with its TUMBLE at 500
counts, a WHOLE station, columns 2 to 6 of tiers 0 to 2. -/
theorem test_footprints :
    let at_ (k : AxisKind) (f : Axis → Axis) : DockRec := { seat with axes := seat.axes.map fun a => if a.kind = k then f a else a }
    ([seat, at_ .slide fun a => { a with count := 0 }, at_ .slide fun a => { a with ref := .unreferenced }].map fun r => r.footprint.card) =
      [21, 15, 33] ∧
    ((seat.sweep .slide 600 0).card, (seat.sweep .slide 0 600).card, (seat.fullSweep .slide).card) = (27, 27, 33) ∧
    (at_ .tumble fun a => { a with count := 500 }).footprint =
      .ofList (Cell.all.filter fun x => x.lane = .left && (2 ≤ x.col.val && x.col.val ≤ 6) && x.tier.val ≤ 2) := by decide +kernel

/-- D1's axes are of different kinds; a count between those of a sweep, and a count that is not believed. -/
theorem witness_footprints : (seat.axes.map (·.kind)).Nodup ∧ (∃ a ∈ seat.axes, a.kind = .slide ∧ a.MayStand captainRev2 600 600 2) ∧
    (∃ a ∈ seat.axes, a.kind = .tumble ∧ a.Between captainRev2 0 900 2) ∧
    (⟨.left, 1, false, .captain⟩ : Placement).Puts 0 ⟨1, 2, 0⟩ ⟨.centre, 3, 0⟩ ∧
    (⟨.right, 1, true, .captain⟩ : Placement).Puts 0 ⟨1, 2, 0⟩ ⟨.centre, 3, 0⟩ ∧
    StationHas captainRev2.base 1 ⟨0, 3, 2⟩ := by
  refine ⟨by decide +kernel, ⟨slide, by decide +kernel, rfl, (Axis.mem_rangeOf slide captainRev2 600 600 2).1 (by decide +kernel)⟩,
    ⟨tumble, by decide +kernel, rfl, by unfold Axis.Between; decide +kernel⟩, ⟨?_, ?_, ?_⟩, ⟨?_, ?_, ?_⟩, ⟨_, rfl, by decide +kernel⟩⟩
  all_goals decide

/-- Ramped, rampless and all-creep moves; progress at the two ends of each segment. -/
theorem witness_moves : 0 < (move1 .move 340 none).rampEff ∧ (move1 .move 562 none).rampEff = 0 ∧ (move1 .move 580 none).rem = 0 ∧
    (move1 .move 340 none).rampEff + (move1 .move 340 none).cruise ≤ 112 ∧ (move1 .move 340 none).distance ≤ 260 ∧
    110 < (move1 .move 340 none).rampEff := by decide +kernel

/-- D1's unit in the worked profile, an occupied SLIDE at half speed, and the next setpoint: 37 counts into the move, and in a ramp-down
begun there with 400 as the last setpoint, at its beginning and 50 counts on; with 200 as the last one it is the creep speed. -/
theorem test_speeds :
    let c (count : Nat) (o : Occupancy) (p : Option StopPlan) : Cabin :=
      (ordered (order1 (step1 .move 340 .running)) { moving { move1 .move 340 none with stop := p } count with occupancy := o }).cab
    let next (c : Cabin) : Option Nat := (c.driven? .d1).map fun p => c.frameSetpoint .d1 p.1 p.2
    ([Occupancy.none, .child].map fun o => ((move1 .move 340 none).fullSpeed .slide o, (move1 .move 340 none).creepSpeed .slide o)) =
      [(800, 200), (400, 100)] ∧ (move1 .move 340 none).fullSpeed .recline .occupied = 800 ∧
    [next (c 563 .none none), next (c 563 .none (some ⟨111, 400, 563⟩)), next (c 513 .none (some ⟨111, 400, 563⟩)),
      next (c 563 .none (some ⟨111, 200, 563⟩)), next (c 602 .none none)] = [some 400, some 400, some 309, some 200, some 200] := by
  decide +kernel

theorem witness_ChangesMoveTheTrackedPosition : 0 < slide.travel ∧ -65535 ≤ slide.tracked + -601 ∧
    slide.tracked + -601 ≤ slide.travel + 65535 ∧ hallChange 0 65535 = 1 ∧ hallChange 65535 0 = -1 := by decide +kernel

/-- D1's SLIDE undriven at a node count of 600, and at the end of its travel: changes of 4 and 5 counts, of a SETTLING axis 0 and 1, and
overruns of 75 and 76 of 1200 counts. -/
theorem witness_counted_axes :
    ((seat.axes.map (·.kind)).Nodup ∧ seated.cab.map.reserved.get .d1 = none ∧ slide.cond = .idle ∧ slide.nodeCount = 600) ∧
    ([604, 605, 595].map fun n => ((slide.takeCount n).1.count, (slide.takeCount n).1.drift, (slide.takeCount n).2)) =
      [(600, 4, false), (605, 0, true), (595, 0, true)] ∧
    ([600, 601].map fun n => ({ slide with cond := .settling }.takeCount n).2) = [false, true] ∧
    ({ slide with cond := .driven }.takeCount 601).2 = false ∧
    ([675, 676].map fun n =>
      let c := (withDock { seat with axes := seat.axes.map fun a => if a.kind = .slide then { a with count := 1200 } else a }).cab
      ((c.takeCounts .d1 [n, 0, 0, 0]).axis? .d1 .slide).map fun a => (a.overrun, a.ref)) =
      [some (75, .referenced), some (0, .referenceFault)] := by decide +kernel

/-- R45: a reservation of D1 that no step claims, one of a HOMING step and one of a move, which each keep or drop its far cell; D1's SLIDE
changed by 5 counts. -/
theorem witness_counts_reserved :
    let R : CellSet := .ofList [cellA, cellD]
    let claimed (k : StepKind) : Cabin := (ordered (order1 { step1 k 340 .claiming with holds := true }) seat).cab
    let taken (c : Cabin) : Cabin :=
      { c with map := { c.map.install (.dock .d1) R with reserved := c.map.reserved.set .d1 (some R) } }.takeCounts .d1 [605, 0, 0, 0]
    ((slide.takeCount 605).2 = true ∧ (seated.cab.claimant? .d1).isNone = true) ∧
    ([StepKind.homing, .move].map fun k => ((claimed k).claimant? .d1).map (·.2.kind)) = [some .homing, some .move] ∧
    ([seated.cab, claimed .homing, claimed .move].map fun c => ((taken c).agenda, (taken c).map.holderOf cellD)) =
      [([], some (.dock .d1)), ([.retryClaims], none), ([.retryClaims], none)] := by
  decide +kernel

/-- A BACK channel in a state after frames at its filtered count, by its reference of 800. -/
def framed (st : ChanState) (F n : Nat) : Chan :=
  (List.replicate n F).foldl (fun c r => c.take defaultLimits 0 false false r) { calm .back with state := st, filtered := some F }

/-- Runs of frames at the deltas on both sides of each limit of BACK (12, 40, 32 and 4, section 8.3): the deltas of the run, the state
before its last frame and after it. -/
theorem witness_ChannelsEnterInFourAndLeaveInSix :
    defaultLimits.back = ⟨12, 40, 8⟩ ∧ ((calm .back).proxRise, (calm .back).touchRise, (calm .back).touchFall, (calm .back).proxFall) =
      (0, 0, 0, 0) ∧
    ([(ChanState.none, 757, 4), (.none, 760, 4), (.none, 787, 4), (.none, 788, 4), (.prox, 760, 4), (.prox, 761, 6), (.prox, 796, 6),
      (.prox, 797, 6), (.touch, 768, 6), (.touch, 769, 6), (.touch, 796, 6), (.touch, 797, 6)].map fun p =>
        ((List.range p.2.2).map (fun n => (framed p.1 p.2.1 (n + 1)).delta), (framed p.1 p.2.1 (p.2.2 - 1)).state,
          (framed p.1 p.2.1 p.2.2).state)) =
      [([42, 41, 41, 40], .none, .touch), ([39, 38, 38, 37], .none, .prox), ([12, 12, 12, 12], .none, .prox),
        ([11, 11, 11, 11], .none, .none), ([40, 40, 40, 40], .prox, .touch), ([39, 39, 39, 39, 39, 39], .prox, .prox),
        ([4, 4, 4, 4, 4, 4], .prox, .prox), ([3, 3, 3, 3, 3, 3], .prox, .none), ([32, 32, 32, 32, 32, 32], .touch, .touch),
        ([31, 31, 31, 31, 31, 31], .touch, .prox), ([4, 4, 4, 4, 4, 4], .touch, .prox), ([3, 3, 3, 3, 3, 3], .touch, .none)] := by
  decide +kernel

/-- One frame at a channel in NONE: in the band, out of it with tuning free to begin and held off, saturated; one at a FAULT channel: of
either cause, at the fifth and the sixth clean frame, with the suppression timer running, and on a touched strip; a dock with a step in
motion and one with none. -/
theorem witness_channel_frames :
    let low : Chan := { calm .back with filtered := some 700, ref16 := some 11200 }
    let fault (n : Nat) (k : Timer) : Chan := { calm .back with state := .fault, fault := some .saturated, clean := n, suppression := k }
    let one (x : Chan) (hold touched : Bool) (raw : Nat) : ChanState × Option ChanFault × Nat × Bool :=
      let z := x.take defaultLimits 0 hold touched raw
      (z.state, z.fault, z.clean, z.retune)
    ([one low false false 700, one low false false 500, one low true false 500, one low false false 4095] =
      [(.none, none, 0, false), (.tuning, none, 0, false), (.none, none, 0, true), (.fault, some .saturated, 0, false)]) ∧
    ([one (fault 4 none) false false 4094, one (fault 5 none) false false 4094, one (fault 5 none) false true 4094,
      one (fault 5 (some 9)) false false 4094, one (fault 5 none) false false 4095] =
      [(.fault, some .saturated, 5, false), (.tuning, none, 0, false), (.fault, some .saturated, 6, true),
        (.fault, some .saturated, 6, false), (.fault, some .saturated, 0, false)]) ∧
    ([4094, 4095].map fun r => one { fault 0 (some 9) with fault := some .compLow } false false r) =
      [(.fault, some .compLow, 0, false), (.fault, some .saturated, 0, false)] ∧
    seated.cab.inMotion .d1 = false ∧ (ordered (order1 (step1 .move 340 .running)) seat).cab.inMotion .d1 = true ∧
    ((seated.cab.dock .d1).chan? .back).isSome = true := by decide +kernel

/-- The search of chapter 8 and the one whose every answer is below 800, which ends at 1023. -/
theorem witness_TuningTakesElevenFrames :
    let low := (List.replicate 10 700).foldl (fun (c : Chan) r => c.take defaultLimits 5 false false r) (newChan .lid).beginTuning
    (List.replicate 10 700).length = 10 ∧ low.comp = 1023 ∧
      (low.take defaultLimits 5 false false 700).fault = some .compHigh ∧ defaultLimits.inBand 700 = true ∧
      defaultLimits.inBand 900 = true ∧ defaultLimits.inBand 699 = false := by decide +kernel

/-- The step and the direction of the search: down by 256 at 800 and above, up by 128 below, and never past 0 or 1023. -/
theorem test_search_steps :
    let x (comp search adjusted : Nat) : Chan := { newChan .back with comp := comp, search := search, adjusted := adjusted }
    ([(x 512 256 0, 800), (x 256 128 1, 799), (x 768 128 1, 799), (x 1023 1 9, 0), (x 0 1 9, 800)].map fun p =>
      (p.1.take defaultLimits 0 false false p.2).comp) = [256, 384, 896, 1023, 0] := by decide

theorem witness_StripPositionWeighsTheElectrodes :
    stripPosition 30 7 ([30, 0, 0, 0].map fun d => { calm .strip with delta := d }) = 0 ∧
    stripPosition 30 7 ([0, 0, 0, 30].map fun d => { calm .strip with delta := d }) = 255 ∧
    stripPosition 30 7 ([29, 0, 0, 0].map fun d => { calm .strip with delta := d }) = 7 := by decide +kernel

/-- D1 READY with a binding of each kind, at a millisecond. -/
def bound (now : Nat) : State :=
  { seated with cab := { seated.cab with
    now := now
    set := { seated.cab.set with bindings :=
      [⟨.tap, some 3, .invoke 5⟩, ⟨.tap, some 0, .toggle .d1⟩, ⟨.flickFwd, none, .toggle .d2⟩, ⟨.flickRear, none, .invoke 9⟩,
        ⟨.swipeHold, none, .jog .d1⟩] } } }

/-- What a release at 1000 ms leaves: the steps of the newest order and the jog, and the STRIP notices. -/
def touched (t : State) : List (AxisKind × Nat) × Option Nat × List Notice :=
  ((t.cab.activeOrders.flatMap fun o => o.steps.map fun x => (x.axis, x.target)), t.cab.jog.map (·.order),
    t.cab.notices.filter fun n => n.subject = .strip)

/-- A TAP of 400 ms in zone 0 and of excursion 39 moves D1's SLIDE out of station 0; flicks of movement 40 and duration 599 are refused,
D2 being EMPTY and layout 9 free; 59 and 600 ms, and a long touch of movement 39, are no gesture; a movement of 40 held for 600 ms jogs. -/
theorem witness_gestures :
    (touched ((bound 1000).releaseTouch ⟨.touching, 600, 63, 24, 39, 0⟩)).1 ≠ [] ∧
    (touched ((bound 1000).releaseTouch ⟨.touching, 940, 63, 63, 0, 0⟩)).1 ≠ [] ∧
    (touched ((bound 1000).releaseTouch ⟨.touching, 401, 80, 40, 40, 0⟩)).2.2 =
      [⟨.strip, some (.refused ⟨.flickFwd, 0, 80, 3, .dockNotReady, none⟩)⟩] ∧
    (touched ((bound 1000).releaseTouch ⟨.touching, 401, 40, 80, 40, 0⟩)).2.2 =
      [⟨.strip, some (.refused ⟨.flickRear, 1, 40, 4, .notFound, none⟩)⟩] ∧
    ((bound 1000).releaseTouch ⟨.touching, 941, 63, 63, 0, 0⟩).cab = (bound 1000).cab ∧
    ((bound 1000).releaseTouch ⟨.touching, 400, 40, 80, 40, 0⟩).cab = (bound 1000).cab ∧
    ((bound 1000).releaseTouch ⟨.touching, 401, 40, 79, 39, 0⟩).cab = (bound 1000).cab ∧
    touched ((bound 1000).touchFrame ⟨.touching, 400, 40, 80, 40, 0⟩) = ([(.slide, 1200)], some 1, []) ∧
    ((bound 1000).touchFrame ⟨.touching, 401, 40, 80, 40, 0⟩).cab = (bound 1000).cab ∧
    ((bound 4000).touchFrame ⟨.touching, 0, 40, 80, 40, 0⟩).pad.touch.map (·.phase) = some .expired := by decide +kernel

/-- State and stop cause of the step of order 1. -/
def causeOf (c : Cabin) : Option (StepState × Option StopCause) :=
  (c.pool.recs.get .s0).bind fun o => (o.steps[0]?).map fun x => (x.state, x.stopCause)

/-- A TAP of zone 0 on D1 with its base axis TUMBLE gone or DISABLED, and a held swipe on D1 with its SLIDE gone. -/
theorem witness_gestures_refused :
    let told (f : List Axis → List Axis) (s : State → State) : List Notice :=
      (touched (s { bound 1000 with cab := (bound 1000).cab.modDock .d1 fun r => { r with axes := f r.axes } })).2.2
    let tap (s : State) : State := s.releaseTouch ⟨.touching, 600, 63, 24, 39, 0⟩
    let swipe (s : State) : State := s.touchFrame ⟨.touching, 400, 40, 80, 40, 0⟩
    UnitKind.captain.baseAxis = .tumble ∧
    (told (fun l => l.filter fun a => a.kind != .tumble) tap) =
      [⟨.strip, some (.refused ⟨.tap, 0, 63, 2, .badArgument, none⟩)⟩] ∧
    (told (fun l => l.map fun a => { a with enabled := false }) tap) =
      [⟨.strip, some (.refused ⟨.tap, 0, 63, 2, .badArgument, none⟩)⟩] ∧
    (told (fun l => l.drop 1) swipe).map (·.subject) = [.strip] := by decide +kernel

/-- The end of a jog for each state of its step, and for each stop cause. -/
theorem witness_jogs_end :
    let c (st : StepState) (why : Option StopCause) : Cabin :=
      { (ordered (order1 { step1 .jog 0 st with stopCause := why }) (moving (move1 .jog 0 none) 500)).cab with jog := some ⟨1, .d1⟩ }
    ([StepState.pending, .claiming, .powering, .starting, .running, .reversing, .done].map fun st => causeOf (c st none).endJog) =
      [some (.skipped, none), some (.skipped, none), some (.skipped, none), some (.stopping, some .release),
        some (.stopping, some .release), some (.reversing, none), some (.done, none)] ∧
    ([StopCause.pause, .cancel].map fun why => causeOf (c .stopping (some why)).endJog) =
      [some (.stopping, some .release), some (.stopping, some .cancel)] ∧
    (c .running none).orderOf? 1 = some (order1 (step1 .jog 0 .running)) ∧ (c .running none).orderOf? 2 = none ∧
    (c .running none).pool.Named := by
  refine ⟨by decide +kernel, by decide +kernel, by decide +kernel, by decide +kernel, named_of (by decide +kernel)⟩

/-! ### Witnesses: requests about layouts -/

/-- Well-formed contents under a label of its own: D1's RECLINE at station 0. -/
def mine (owner : Nat) : RawContents := ⟨labelOf "MINE", owner, 0, [⟨1, 0, [(1, 0)]⟩]⟩

theorem mine_wellFormed (owner : Nat) (h : owner ≤ 4) : (mine owner).WellFormed where
  label := by simp only [mine]; decide
  owner := h
  urgency := by simp only [mine]; decide
  count := by simp only [mine]; decide
  docks := by simp only [mine]; decide
  entry := by simp only [mine]; decide
  axes := by
    intro e he p hp
    simp only [mine, List.mem_singleton] at he
    subst he
    simp only [List.mem_singleton] at hp
    subst hp
    exact ⟨.recline, rfl, .inr ⟨.captain, rfl, by decide⟩⟩

/-- A store with USER records, and with the FACTORY records of a list of changes. -/
def storing (bad : List RecId) (factory : StoredLayout → StoredLayout) (users : List StoredLayout) : Nonvolatile :=
  { State.reset.store.nv with bad := bad, layouts := (State.reset.store.nv.layouts.map factory) ++ users }

/-- The cases of R71: a limits record whose check fails; FACTORY 2 restored, and with it USER 7 freed, which has its label; 8 not well
formed, 9 sound, 10 with 9's label, 11 with a failing check, 12 empty and failing, 13 empty; then FACTORY 6 stored with the label of the
restored 2, which restores all six. -/
theorem witness_loading :
    let label (n : Nat) (l : String) : StoredLayout := ⟨n, 3, { mine 0 with label := labelOf l }⟩
    let users := [label 7 "FIVE-CARGO", ⟨8, 3, { mine 0 with urgency := 2 }⟩, label 9 "A", label 10 "A", label 11 "B"]
    let bad : List RecId := [.settings .limits, .layout 2, .layout 11, .layout 12]
    let loads (nv : Nonvolatile) := (nv.loadLayouts.take 13).map fun x => (x.live.map (·.generation), x.told)
    let lost : Option Nat × Option Indication := (none, some .lost)
    let kept (n : Nat) : Option Nat × Option Indication := (some n, none)
    let back : Option Nat × Option Indication := (some 1, some .restored)
    let one := storing bad id users
    let all := storing bad (fun x => if x.number = 6 then label 6 "FIVE-CARGO" else x) users
    loads one = [kept 1, back, kept 1, kept 1, kept 1, kept 1, lost, lost, kept 3, lost, lost, lost, (none, none)] ∧
    loads all = [back, back, back, back, back, back, lost, lost, kept 3, lost, lost, lost, (none, none)] ∧
    one.badSettings = [.limits] := by decide +kernel

/-- A USER record under a label of one character. -/
def user (n owner : Nat) : LayoutRec :=
  ⟨n, [65 + n], owner, 1, .comfort, [⟨.d1, .only .captain, [(.recline, 0)]⟩], .noMatch, .stored⟩

/-- The part with USER records added. -/
def withUsers (l : List LayoutRec) (m : Option Nat) : State :=
  { State.reset with cab := { State.reset.cab with layouts := ⟨State.reset.cab.layouts.live ++ l, m, []⟩ } }

/-- Every position taken. -/
def full : State := withUsers ((List.range 18).map fun i => user (i + 7) 2) (some 24)

theorem full_sound : full.cab.layouts.Sound := layouts_sound_of (by decide +kernel)

/-- Numbers 0, 25, a free one and live ones; labels bad, unused and live; a match and none. -/
theorem witness_LayoutLookups :
    (∀ l ∈ State.reset.cab.layouts.live, l.number ≠ 24) ∧ (∃ l ∈ full.cab.layouts.live, l.number = 24) ∧
    (∃ l ∈ full.cab.layouts.live, full.cab.layouts.match_ = some l.number) ∧ State.reset.cab.layouts.match_ = none ∧
    labelOk [] = false ∧ labelOk (labelOf "MINE") = true ∧ (∀ l ∈ State.reset.cab.layouts.live, l.label ≠ labelOf "MINE") ∧
    (∃ l ∈ State.reset.cab.layouts.live, l.label = labelOf "EGRESS-R") := by decide +kernel

/-- For each check of R58 a write that fails it having passed those before: the classes, number 25, contents with no label,
BODY on 6, owner 1 on 1, another profile's owner on 0, a full table, and EGRESS-R's label on 0. -/
theorem witness_WriteLayoutChecksInOrder :
    restraint.cls = .restraint ∧ ¬ 25 ≤ 24 ∧ ¬ RawContents.WellFormed ⟨[], 0, 0, [⟨1, 0, []⟩]⟩ ∧ (mine 0).WellFormed ∧
    (mine 1).WellFormed ∧ (mine 4).WellFormed ∧ ¬ ((mine 2).owner = 0 ∨ (mine 2).owner = (from_ 1280).profile) ∧
    (∀ k ∈ List.range 25, 7 ≤ k → ∃ l ∈ full.cab.layouts.live, l.number = k) ∧
    (∃ l ∈ State.reset.cab.layouts.live, l.label = labelOf "EGRESS-R" ∧ l.number = 6) :=
  ⟨rfl, by decide, fun h => by simpa using h.label.1, mine_wellFormed 0 (by decide), mine_wellFormed 1 (by decide),
    mine_wellFormed 4 (by decide), by decide, by decide +kernel, by decide +kernel⟩

/-- Conditions of R58 met by a write into the lowest free position from BODY of profile 1, and into position 6 from SERVICE. -/
theorem witness_WriteLayoutWritesTheRecord :
    State.reset.Takes (from_ 1280) body ∧ (mine 1).WellFormed ∧ (mine 1).owner = (from_ 1280).profile ∧ service.cls = .service ∧
    (mine 0).WellFormed ∧ (mine 0).owner = 0 ∧ (∀ l ∈ State.reset.cab.layouts.live, l.number ≠ 7) ∧
    (∀ l ∈ State.reset.cab.layouts.live, l.label ≠ labelOf "MINE") ∧
    (leaves (.writeLayout (from_ 1280) 0 (mine 1)) seated fun t => (t.cab.layouts.match_, t.cab.layouts.dirty,
      t.cab.notices.map (·.subject))) = some (some 7, [7], [.posture .d1, .layout 7]) :=
  ⟨takes_of (by decide +kernel), mine_wellFormed 1 (by decide), rfl, rfl, mine_wellFormed 0 (by decide), rfl, by decide +kernel,
    by decide +kernel, by decide +kernel⟩

/-- D4's record, READY with a THIRD whose RECLINE is at a count of 100. -/
def rear (count : Nat) : DockRec :=
  { seat with
    placement := some ⟨defaultDockTable.d4, envelope builtInGeometry defaultDockTable.d4⟩
    identity := some { captain with kind := .third, axisCount := 3 }
    geometry := some thirdRev1
    axes := [⟨.well, 300, 0, 40, 600, 1400, 4000, 0⟩, ⟨.recline, 100, 0, 40, 600, 1400, 4000, count⟩,
      ⟨.headrest, 240, 0, 15, 200, 1400, 3000, 0⟩].map (newAxis thirdRev1 true) }

/-- D1 and D4 READY. D1's SLIDE at 300 mm and D4's RECLINE at station 1 share lane L column 9 tier 3 (the worked figures of R34), with D4's
entry matched or its posture so; a slide at 150 mm does not reach it; an entry of EMPTY D2 is unmatched. -/
theorem witness_validation :
    let docks (count : Nat) : PerDock DockRec := (withDock seat).cab.docks.set .d4 (rear count)
    let e1 (mm : Nat) : Entry := ⟨.d1, .any, [(.slide, mm)]⟩
    let e2 : Entry := ⟨.d2, .any, []⟩
    let e4 : Entry := ⟨.d4, .only .third, [(.recline, 1)]⟩
    ([[e1 300, e4], [e1 150, e4], [e1 150, e2, e4], [e2]].map fun l => validate (docks 0) l) =
      [.infeasible .d1 .d4, .feasible, .partial_, .noMatch] ∧
    ([0, 100].map fun n => validate (docks n) [e1 300]) = [.feasible, .infeasible .d1 .d4] ∧
    ([e1 300, e2, e4].map (·.dock)).Nodup ∧ (((docks 0).get .d4).axes.map (·.kind)).Nodup ∧
    e4.matched (docks 0) = true ∧ ({ e4 with expected := .only .captain }).matched (docks 0) = false := by decide +kernel

/-- A record that D1's posture meets and one that it does not (5 and 6 mm off), the lower number of two, and a revalidation that changes
both. -/
theorem witness_match :
    let l (n mm : Nat) (v : Validation) : LayoutRec := { user n 0 with entries := [⟨.d1, .any, [(.slide, mm)]⟩], validation := v }
    let t (a b : LayoutRec) : State := { withDock seat with cab := { seated.cab with layouts := (withUsers [a, b] none).cab.layouts } }
    let of (a b : LayoutRec) : Option Nat := (t a b).cab.layouts.computeMatch seated.cab.docks
    let c : Cabin := (t (l 7 150 .noMatch) (l 8 0 .feasible)).cab.revalidate none
    [of (l 7 155 .feasible) (l 8 150 .partial_), of (l 7 156 .feasible) (l 8 145 .partial_), of (l 7 150 .noMatch) (l 8 144 .feasible)] =
      [some 7, some 8, none] ∧
    (c.layouts.match_, c.notices.map (·.subject)) =
      (some 1, [.layout 1, .layout 2, .layout 3, .layout 4, .layout 5, .layout 7, .posture .d1]) ∧
    (t (l 7 150 .noMatch) (l 8 0 .feasible)).cab.layouts.Sound := by
  refine ⟨by decide +kernel, by decide +kernel, layouts_sound_of (by decide +kernel)⟩

/-- Numbers 0, 25, 1, 6, a free 7, and a live 24 of profile 2 against profiles 1 and 2. -/
theorem witness_RetireLayoutFreesThePosition : (∀ l ∈ State.reset.cab.layouts.live, l.number ≠ 7) ∧
    (∃ l ∈ full.cab.layouts.live, l.number = 24 ∧ l.owner ≠ 0 ∧ l.owner ≠ (from_ 1280).profile) ∧
    full.Takes (from_ 1284) service ∧ full.Takes ⟨1280, 7, 2, false⟩ body :=
  ⟨by decide +kernel, by decide +kernel, takes_of (by decide +kernel), takes_of (by decide +kernel)⟩

/-! ### Witnesses: requests about orders -/

/-- Record 7 in each validation state, D1 READY. -/
def invocable (v : Validation) (targets : List (AxisKind × Nat)) (s : State) : State :=
  { s with cab := { s.cab with layouts :=
    ⟨s.cab.layouts.live ++ [⟨7, [65], 0, 65535, .egress, Dock.all.map fun d => ⟨d, .any, targets⟩, v, .stored⟩], none, []⟩ } }

/-- Five READY docks whose axes are not believed: more than 20 steps. -/
def unbelieved : State :=
  let r : DockRec := { seat with axes := seat.axes.map fun a => { a with ref := .unreferenced } }
  { seated with cab := { seated.cab with docks := PerDock.rep r } }

/-- The validation states; PARKED and not; no step, one step and too many; a pool with no free slot. -/
theorem witness_InvokeLayoutChecksInOrder :
    (∃ l ∈ (invocable (.infeasible .d1 .d5) [] seated).cab.layouts.live, l.number = 7 ∧ l.validation = .infeasible .d1 .d5) ∧
    (∃ l ∈ (invocable .noMatch [] seated).cab.layouts.live, l.number = 7 ∧ l.validation = .noMatch) ∧
    State.reset.port.parked = false ∧ seated.port.parked = true ∧
    (∃ l ∈ (invocable .partial_ [(.tumble, 0)] seated).cab.layouts.live, l.number = 7 ∧
      expand (invocable .partial_ [(.tumble, 0)] seated).cab.docks l.entries = []) ∧
    (∃ l ∈ (invocable .feasible [(.tumble, 7)] seated).cab.layouts.live, l.number = 7 ∧ l.generation = 65535 ∧
      (expand (invocable .feasible [(.tumble, 7)] seated).cab.docks l.entries).length = 1) ∧
    (∃ l ∈ (invocable .feasible [(.slide, 150), (.recline, 7), (.tumble, 7), (.headrest, 7)] unbelieved).cab.layouts.live,
      l.number = 7 ∧ 20 < (expand unbelieved.cab.docks l.entries).length) ∧
    ({ seated with cab := { seated.cab with pool := { seated.cab.pool with free := [] } } } : State).cab.pool.free = [] ∧
    (invocable .feasible [(.tumble, 7)] seated).cab.layouts.Sound :=
  ⟨by decide +kernel, by decide +kernel, by decide +kernel, by decide +kernel, by decide +kernel, by decide +kernel,
    by decide +kernel, rfl, layouts_sound_of (by decide +kernel)⟩

/-- A TAP of zone 3 bound to INVOKE of layout 7, in each validation state that refuses it, and with more than 20 steps. -/
theorem witness_gestures_invoke_refused :
    let told (v : Validation) (targets : List (AxisKind × Nat)) (s : State) : List Notice :=
      let s := invocable v targets s
      let set := { s.cab.set with bindings := [⟨.tap, some 3, .invoke 7⟩] }
      (touched (State.releaseTouch { s with cab := { s.cab with set := set, now := 1000 } } ⟨.touching, 600, 200, 200, 0, 0⟩)).2.2
    told (.infeasible .d1 .d5) [] seated = [⟨.strip, some (.refused ⟨.tap, 3, 200, 1, .infeasible, some 21⟩)⟩] ∧
    told .noMatch [] seated = [⟨.strip, some (.refused ⟨.tap, 3, 200, 1, .dockNotReady, none⟩)⟩] ∧
    told .feasible [(.slide, 150), (.recline, 7), (.tumble, 7), (.headrest, 7)] unbelieved =
      [⟨.strip, some (.refused ⟨.tap, 3, 200, 1, .badArgument, some 2⟩)⟩] := by decide +kernel

/-- The three requests on D1: the pool, a free slot, plans of one step, an axis and an entry. -/
theorem witness_OrderRequestsAdmitTheirOrders : seated.cab.pool.Parted ∧ seated.cab.pool.Named ∧ body.cls ≠ .restraint ∧
    seated.port.parked = true ∧ seated.cab.pool.free = .s0 :: [.s1, .s2, .s3, .s4, .s5, .s6, .s7] ∧
    (seated.cab.dock .d1).state = .ready ∧ seated.cab.axis? .d1 .slide = some slide ∧ (seated.cab.dock .d1).geometry = some captainRev2 ∧
    slide.enabled = true ∧ targetPlans .d1 slide captainRev2 (min 1000 1000) ≠ [] ∧
    homingPlans .d1 ((seated.cab.dock .d1).axes.filter fun a => (none : Option AxisKind).isNone || none = some a.kind) ≠ [] ∧
    (∃ o ∈ (ordered (order1 (step1 .move 340 .running)) seat).cab.activeOrders, ∃ x ∈ o.steps, x.dock = .d1 ∧ x.state.terminal = false) := by
  refine ⟨?_, named_of (by decide +kernel), by decide, by decide +kernel, by decide +kernel, by decide +kernel, by decide +kernel,
    by decide +kernel, by decide, by decide, by decide +kernel, by decide +kernel⟩
  show (Slot.all ++ []).Perm Slot.all
  decide

/-- The refusals of MOVE_AXIS and HOMING on D1: dock 0 and 6, axis code 5, urgency 2, an EMPTY dock, a missing and a DISABLED axis, not
PARKED, a target already met, no free slot. -/
theorem witness_orders_refused :
    let lame : State := withDock { seat with axes := [{ slide with enabled := false }] }
    let away (s : State) : State := { s with port := { s.port with parked := false } }
    let busy (s : State) : State := { s with cab := { s.cab with pool := { s.cab.pool with free := [] } } }
    let code (i : Instr) (s : State) : Option Code := (answer i s).map (·.1)
    (answer (.moveAxis (from_ 1283) 1 0 85 none) seated).map (·.1) = some .refusedAccess ∧
    ([(0, 0, none), (6, 0, none), (1, 5, none), (1, 0, some 2), (1, 3, none)].map fun p =>
      code (.moveAxis (from_ 1280) p.1 p.2.1 85 p.2.2) seated) = List.replicate 5 (some .badArgument) ∧
    code (.moveAxis (from_ 1280) 2 0 85 none) seated = some .dockNotReady ∧
    code (.moveAxis (from_ 1280) 1 0 85 none) lame = some .badArgument ∧
    code (.moveAxis (from_ 1280) 1 0 85 none) (away seated) = some .notParked ∧
    answer (.moveAxis (from_ 1280) 1 0 150 none) seated = some (.ok, some 1, []) ∧
    code (.moveAxis (from_ 1280) 1 0 85 none) (busy seated) = some .poolFull ∧
    code (.homing (from_ 1280) 1 (some 5)) seated = some .badArgument ∧
    code (.homing (from_ 1280) 2 none) seated = some .dockNotReady ∧
    code (.homing (from_ 1280) 1 none) lame = some .badArgument ∧
    code (.homing (from_ 1280) 1 (some 0)) (away seated) = some .notParked ∧
    code (.homing (from_ 1280) 1 none) (busy seated) = some .poolFull := by decide +kernel

/-- A new order on D1 over order 1, whose step there stands in each state, and over one whose step it does not touch. -/
theorem witness_superseded :
    let c (st : StepState) (d : Dock) : Cabin :=
      (ordered (order1 (step1 .move 340 st)) (moving (move1 .move 340 none) 500)).cab.admitOrder
        ⟨.cls .body, .single, none, .comfort, [⟨d, .recline, .move, 400, .stowing⟩]⟩
    ([StepState.pending, .claiming, .powering, .starting, .running, .stopping, .reversing].map fun st => stepOf (c st .d1)) =
      [some .skipped, some .skipped, some .skipped, some .stopping, some .stopping, some .stopping, some .reversing] ∧
    stepOf (c .running .d2) = some .running ∧
    ((c .running .d1).pool.recs.get .s0).map (·.superseded) = some [.d1] ∧
    (ordered (order1 (step1 .move 340 .running)) seat).cab.pool.free ≠ [] := by decide +kernel

/-- DISABLED; met and not met; not believed with target 0 and another. -/
theorem witness_TargetsExpandIntoSteps : { slide with enabled := false }.enabled = false ∧ slide.enabled = true ∧
    slide.ref = .referenced ∧ absDiff (millimetres slide.count slide.pitch) 155 ≤ 5 ∧
    ¬ absDiff (millimetres slide.count slide.pitch) 156 ≤ 5 ∧ { slide with ref := .unreferenced }.ref ≠ .referenced ∧
    slide.targetCount captainRev2 0 = 0 ∧ slide.targetCount captainRev2 1 ≠ 0 := by decide

/-- D1 with every axis to move, its RECLINE to be homed first: stowing HEADREST and TUMBLE before deploying SLIDE, the homing before its move
(the class of that homing is free); an entry of an EMPTY dock makes none; ALL of a dock with a DISABLED axis. -/
theorem witness_steps_in_order :
    let r : DockRec := { seat with axes := seat.axes.map fun a => if a.kind = .recline then { a with ref := .unreferenced } else a }
    let targets : List (AxisKind × Nat) := [(.slide, 300), (.recline, 1), (.tumble, 2), (.headrest, 1)]
    ((dockPlans .d1 r targets).map fun p => (p.axis, p.kind)) =
      [(.headrest, .move), (.recline, .homing), (.recline, .move), (.tumble, .move), (.slide, .move)] ∧
    (targets.map (·.1)).Nodup ∧
    ((expand (withDock r).cab.docks [⟨.d1, .any, [(.slide, 300)]⟩, ⟨.d2, .any, [(.slide, 300)]⟩]).map (·.dock)) = [.d1] ∧
    (⟨.d1, .any, []⟩ : Entry).matched (withDock r).cab.docks = true ∧ (⟨.d2, .any, []⟩ : Entry).matched (withDock r).cab.docks = false ∧
    ((homingPlans .d1 (seat.axes.map fun a => { a with enabled := a.kind != .recline })).map (·.axis)) = [.slide, .tumble, .headrest] ∧
    (planSteps (targetPlans .d1 slide captainRev2 0)).map (·.index) = [1] := by decide +kernel

/-- One active order, its cancel taken and not; numbers 0, 65536 and 65535. -/
theorem witness_CancelsAreTaken :
    (∃ o ∈ (ordered (order1 (step1 .move 340 .running)) seat).cab.activeOrders, o.cancelTaken = false) ∧
    (∃ o ∈ (ordered { order1 (step1 .move 340 .running) with cancelTaken := true } seat).cab.activeOrders, o.cancelTaken = true) ∧
    (∀ o ∈ (ordered (order1 (step1 .move 340 .running)) seat).cab.activeOrders, o.number ≠ 65535) ∧
    (ordered (order1 (step1 .move 340 .running)) seat).cab.pool.Named ∧
    (ordered (order1 (step1 .move 340 .running)) seat).cab.pool.Numbered ∧
    (ordered (order1 (step1 .move 340 .running)) seat).Takes (from_ 1280) body :=
  ⟨by decide +kernel, by decide +kernel, by decide +kernel, named_of (by decide +kernel), numbered_of (by decide +kernel),
    takes_of (by decide +kernel)⟩

/-- D1's SLIDE driven by the one step of order 1, in a state and with a stop cause. -/
def drivenBy (k : StepKind) (target : Nat) (st : StepState) (why : Option StopCause) (count : Nat) : State :=
  ordered (order1 { step1 k target st with stopCause := why }) (moving (move1 k target (some 150)) count)

/-- A cancel of each step state, and the end of a ramp-down for each stop cause. -/
theorem witness_cancelled_steps :
    ([StepState.pending, .claiming, .powering, .starting, .running, .stopping, .reversing].map fun st =>
      stepOf ((drivenBy .move 340 st none 500).cab.cancelOrder .s0)) =
      [some .skipped, some .skipped, some .skipped, some .stopping, some .stopping, some .stopping, some .reversing] ∧
    ([StopCause.cancel, .supersede].map fun why => stepOf ((drivenBy .move 340 .stopping (some why) 500).cab.endStopping .d1)) =
      [some .skipped, some .skipped] ∧
    ([StopCause.release, .pause].map fun why => stepOf ((drivenBy .move 340 .stopping (some why) 500).cab.endStopping .d1)) =
      [some .done, some .claiming] ∧
    stepOf ((ordered { order1 { step1 .move 340 .stopping with stopCause := some .pause } with superseded := [.d1] }
      (moving (move1 .move 340 (some 150)) 500)).cab.endStopping .d1) = some .skipped ∧
    ((drivenBy .move 340 .stopping (some .pause) 500).cab.driven? .d1).isSome = true ∧
    (drivenBy .homing 0 .running none 500).cab.pool.Named :=
  ⟨by decide +kernel, by decide +kernel, by decide +kernel, by decide +kernel, by decide +kernel, named_of (by decide +kernel)⟩

/-- The stop plan of a cancel at 563 counts and at 378: the smaller of the ramp of 111 and the distance left, the last setpoint and the
position; the motor goes on as it was. -/
theorem test_stop_plans :
    let c (count : Nat) : Cabin := (ordered (order1 (step1 .move 340 .running))
      { moving { move1 .move 340 none with lastSetpoint := 400 } count with command := .drive 0 .decrease 400 }).cab.cancelOrder .s0
    ([563, 378].map fun n => (((c n).driven? .d1).bind fun p => p.2.stop).map fun q => (q.length, q.setpoint, q.origin)) =
      [some (111, 400, 563), some (38, 400, 378)] ∧
    ((c 563).dock .d1).command = .drive 0 .decrease 400 ∧ stepOf (c 563) = some .stopping := by decide +kernel

/-- Order 1 with one step has parts 0 and 1; D1 with four axes has parts 0 to 4. -/
theorem witness_PartLookupsAnswerTheirPart :
    (ordered (order1 (step1 .move 340 .running)) seat).cab.orderOf? 1 = some (order1 (step1 .move 340 .running)) ∧
    1 + ((order1 (step1 .move 340 .running)).steps.length + 1) / 2 = 2 ∧ Dock.ofNum? 0 = none ∧ Dock.ofNum? 6 = none ∧
    1 + (seated.cab.dock .d1).axes.length = 5 ∧ (seated.cab.dock .d1).axes[4 - 1]?.isSome = true := by decide +kernel

/-! ### Witnesses: requests about docks and settings -/

theorem witness_ReEnrollFollowsTheDockState : Dock.ofNum? 0 = none ∧ Dock.ofNum? 6 = none ∧ Dock.d5.num = 5 ∧
    (seated.cab.dock .d1).state = .ready ∧ ((withDock { seat with state := .silent }).cab.dock .d1).state = .silent ∧
    ((withDock { seat with state := .seating }).cab.dock .d1).state = .seating ∧
    ((withDock { seat with state := .faulted, fault := some .noResponse }).cab.dock .d1).state = .faulted ∧
    (State.reset.cab.dock .d1).state = .empty ∧ restraint.cls ≠ .body ∧ restraint.cls ≠ .service := by decide +kernel

/-- CAPTAIN's tables as a request carries them, and a base of 24 cells in two lanes, too large for D1. -/
def captainTables (base : List RelCell) : RawGeometry :=
  ⟨some 300, some [⟨0, base, false⟩, ⟨400, relBlock 0 3 0 2, true⟩], some captainRev2.recline, captainRev2.headrest, some []⟩

def wide : List RelCell := (relBlock 0 1 0 5) ++ (relBlock 0 1 0 5).map fun c => { c with lane := 1 }

/-- A new revision 15, accepted, too large, busy; a removal of revision 2; the Dock Table as it stands. -/
theorem witness_TableWritesChangeTheTable :
    (∃ e, (captainTables []).WellFormed .captain ∧ (captainTables []).Makes .captain 15 e ∧
      State.reset.cab.entryTooLarge? (putEntry State.reset.cab.set.geometry e) e = none) ∧
    (∃ e, (captainTables wide).WellFormed .captain ∧ (captainTables wide).Makes .captain 15 e ∧
      State.reset.cab.entryTooLarge? (putEntry State.reset.cab.set.geometry e) e = some .d1) ∧
    State.reset.cab.set.geometry.length < 8 ∧ (∃ x ∈ State.reset.cab.set.geometry, x.kind = .captain ∧ x.revision = 2) ∧
    (∃ p : List RawPlacement, (p.length = 5 ∧ ∀ x ∈ p, x.WellFormed) ∧
      (∀ e : Dock, ∃ x, p[e.num - 1]? = some x ∧ x.Makes (defaultDockTable.get e)) ∧ tableTooLarge? State.reset.cab.set.geometry defaultDockTable = none) ∧
    State.reset.store.geometryBusy = false ∧ State.reset.store.dockTableBusy = false ∧
    ({ State.reset.store with dockTableBusy := true } : Store).dockTableBusy = true := by
  have contents (l : List RelCell) (e : GeomEntry) (h : rawEntry? (captainTables l) .captain 15 = some e) := rawEntry?_eq_some.1 h
  have five := dockTableOf?_eq_some.1 (by decide +kernel : dockTableOf?
    [⟨0, 1, 0, 0⟩, ⟨1, 1, 0, 1⟩, ⟨2, 1, 1, 0⟩, ⟨0, 8, 0, 2⟩, ⟨2, 8, 1, 2⟩] = some defaultDockTable)
  exact ⟨⟨_, (contents [] _ rfl).1, (contents [] _ rfl).2, by decide +kernel⟩,
    ⟨_, (contents wide _ rfl).1, (contents wide _ rfl).2, by decide +kernel⟩, by decide +kernel, by decide +kernel,
    ⟨_, five.1, five.2, by decide +kernel⟩, by decide +kernel, by decide +kernel, rfl⟩

/-- The refusals of the two table writes: from BODY, kind 3, revision 16, a reach of 1001 mm, a removal of no live key and one while a write
runs, a ninth entry, four placements, and a Dock Table on which a wide unit is too large. -/
theorem witness_table_writes_refused :
    let wg (ident k rev : Nat) (g : Option RawGeometry) (s : State) := answer (.writeGeometry (from_ ident) k rev g) s
    let store (f : Store → Store) : State := { State.reset with store := f State.reset.store }
    let tables (l : List GeomEntry) : State := { State.reset with cab := { State.reset.cab with set := { State.reset.cab.set with geometry := l } } }
    let e : GeomEntry := { captainRev2 with base := [⟨0, wide, false⟩, ⟨400, [], true⟩], revision := 9 }
    let places : List RawPlacement := [⟨0, 1, 0, 0⟩, ⟨1, 1, 0, 1⟩, ⟨2, 1, 1, 0⟩, ⟨0, 8, 0, 2⟩, ⟨2, 8, 1, 2⟩]
    [wg 1280 0 15 none State.reset, wg 1284 3 15 none State.reset, wg 1284 0 16 none State.reset, wg 1284 0 15 none State.reset,
      wg 1284 0 2 none (store fun x => { x with dockTableBusy := true }),
      wg 1284 0 15 (some (captainTables [])) (tables ((List.range 8).map fun n => { captainRev2 with revision := n })),
      answer (.writeDockTable (from_ 1284) (places.take 4)) State.reset, answer (.writeDockTable (from_ 1280) places) State.reset,
      answer (.writeDockTable (from_ 1284) places) (tables [e])] =
      [some (.refusedAccess, none, []), some (.badArgument, none, []), some (.badArgument, none, []), some (.notFound, none, []),
        some (.busy, none, []), some (.tableFull, none, []), some (.badArgument, none, []), some (.refusedAccess, none, []),
        some (.badArgument, some 1, [])] ∧
    ¬ ({ captainTables [] with reach := some 1001 } : RawGeometry).WellFormed .captain ∧
    ¬ (⟨2, 16, 1, 2⟩ : RawPlacement).WellFormed := by
  refine ⟨by decide +kernel, fun h => ?_, fun h => absurd h.origin (by decide)⟩
  obtain ⟨e, he⟩ := RawGeometry.WellFormed.makes h 15
  exact absurd (rawEntry?_eq_some.2 ⟨h, he⟩) (by rw [(by decide +kernel : rawEntry? _ _ 15 = none)]; exact fun h => nomatch h)

/-- Values at both ends of each range and past them, clamped; a place with one of its four parameters set. -/
theorem test_override_ranges :
    ([(Param.ramp, 7), (.ramp, 401), (.creep, 3), (.creep, 65), (.creepSpeed, 9), (.creepSpeed, 51), (.speed, 19), (.speed, 2001),
      (.speed, 800)].map fun p => p.1.clamp p.2) = [8, 400, 4, 64, 10, 50, 20, 2000, 800] ∧
    (⟨.captain, .slide, some 1, some 2, some 3, some 4⟩ : Override).put .creep (some 9) =
      ⟨.captain, .slide, some 1, some 9, some 3, some 4⟩ := by decide

theorem witness_OverridesAreClampedAndStored : Param.ofCode? 0 = some .ramp ∧ Param.ofCode? 3 = some .speed ∧ .well ∉ UnitKind.captain.axes ∧
    .slide ∈ UnitKind.captain.axes ∧ body.cls ≠ .service ∧ UnitKind.ofCode? 3 = none ∧ AxisKind.ofCode? 5 = none ∧
    Param.ofCode? 4 = none := by decide +kernel

/-- Two grants of 30 and 40 under a budget: both levels, each fitting or not. -/
def granting (budget : Nat) : State :=
  { drivenBy .move 340 .running none 500 with cab := { (drivenBy .move 340 .running none 500).cab with
    arb := { emptyArbiter with budget := budget, grants := [⟨.d1, ⟨1, 1⟩, 1, 30⟩, ⟨.d2, ⟨9, 1⟩, 0, 40⟩] } } }

/-- A limit of 30 and of 500; a budget that stands, rises, falls with what is held and falls below it; every item of SET_LIMITS at both
ends of its range and past them; a binding in a place, one that clashes, the last SERVICE place written NONE, place 16. -/
theorem witness_BudgetAndLimitsAreTaken : service.cls = .service ∧
    ([30, 80, 400, 500].map fun n => answer (.setBudget (from_ 1284) n) State.reset) =
      [some (.ok, none, [0, 80, 0, 0, 0, 0]), some (.ok, none, [0, 80, 0, 0, 0, 0]), some (.ok, none, [1, 144, 0, 0, 0, 0]),
        some (.ok, none, [1, 144, 0, 0, 0, 0])] ∧
    ([71, 70, 69, 30, 29].map fun e => ((granting 71).cab.changeBudget e).arb.grants.map (·.dock)) =
      [[.d1, .d2], [.d1, .d2], [.d1], [.d1], []] ∧
    ([LimitWrite.blockWait 0, .blockWait 61, .currentFilter 15, .currentFilter 256, .slideMargin 199, .axisMargin 5001,
      .reverseDistance 7, .presenceFilter 256, .tuningBand 79, .tuningBand 1601, .prox .lid 3, .prox .strip 251, .touch .back 12,
      .touch .back 501, .hysteresis .back 0, .hysteresis .back 12, .noticeMode 1].map fun w => (applyLimit? w defaultLimits).map
        (fun p => (wordOf p.2).map (·.toNat))) =
      [[0, 1], [0, 60], [0, 16], [0, 255], [0, 200], [19, 136], [0, 8], [0, 255], [0, 80], [6, 64], [0, 4], [0, 250], [0, 13],
        [1, 244], [0, 1], [0, 11], [0, 1]].map some ∧
    (applyLimit? (.noticeMode 2) defaultLimits) = none ∧ (applyLimit? (.unknown 36) defaultLimits) = none ∧
    (defaultIdentifiers.write? 15 (some ⟨1500, 1501, 0⟩)).isSome = true ∧ defaultIdentifiers.write? 4 none = none ∧
    defaultIdentifiers.write? 16 none = none ∧ defaultIdentifiers.write? 15 (some ⟨1280, 1501, 0⟩) = none := by
  decide +kernel

/-- Order 1's step on D1's SLIDE, not driven, in a state; the axis and the CUSHION as given. -/
def sequenced (x : Step) (a : Axis) (cushion : ChanState) : Cabin :=
  (ordered (order1 x) { seat with axes := [a], chans := [{ calm .cushion with state := cushion }, calm .back] }).cab

/-- A step that may leave PENDING: DISABLED, already there, onto an occupied seat, and none of these; a claim attempt of a step in
CLAIMING: REFERENCE_FAULT, 29999 ms and 30000 ms old, for HOMING and a MOVE; with a claim held, with cells free and with a cell of another
dock's. -/
theorem witness_StepsAreSequencedAndArbitrated :
    (sequenced (step1 .move 340 .pending) slide .none).pool.Named ∧
    stepOf (Cabin.runTask (.testDock .d1) (sequenced (step1 .move 340 .pending) { slide with enabled := false } .none)) =
      some .failed ∧
    stepOf (Cabin.runTask (.testDock .d1) (sequenced (step1 .move 600 .pending) slide .none)) = some .done ∧
    stepOf (Cabin.runTask (.testDock .d1) (sequenced (step1 .move 340 .pending) slide .none)) = some .claiming ∧
    ([(StepKind.move, 30000), (.homing, 29999), (.homing, 30000)].map fun p =>
      let c := sequenced (step1 p.1 0 .claiming) { slide with ref := .referenceFault, faultTime := some 0 } .none
      stepOf (Cabin.runTask (.attempt ⟨1, 1⟩) { c with now := p.2 })) = [some .failed, some .claiming, some .powering] ∧
    stepOf (Cabin.runTask (.attempt ⟨1, 1⟩) (sequenced { step1 .move 340 .claiming with holds := true } slide .none)) =
      some .powering ∧
    (Cabin.runTask (.request ⟨1, 1⟩) (sequenced (step1 .move 340 .powering) slide .none)).arb.requests.get .d1 =
      some ⟨⟨1, 1⟩, 0, 30, 15000⟩ ∧
    stepOf (Cabin.runTask (.attempt ⟨1, 1⟩) { sequenced (step1 .move 340 .claiming) slide .none with
      map := State.reset.cab.map.install .frontL (.ofList Cell.all) }) = some .claiming := by
  refine ⟨named_of (by decide +kernel), ?_⟩
  decide +kernel

/-- Three requests, levels 0, 1 and 1, of 40, 30 and 60: heads by the pointers and level-0 due, and a pass whose level-0 head does not fit
and is passed by one level-1 request. -/
theorem witness_arbitration :
    let a : Arbiter := { emptyArbiter with
      budget := 35
      requests := ((emptyArbiter.requests.set .d1 (some ⟨⟨1, 1⟩, 0, 40, 0⟩)).set .d2 (some ⟨⟨2, 1⟩, 1, 30, 0⟩)).set .d3
        (some ⟨⟨3, 1⟩, 1, 60, 0⟩) }
    let passed (b : Nat) : Arbiter := (Cabin.runTask .pass { seated.cab with arb := { a with budget := b, due0 := true } }).arb
    a.chooseHead.head = some .d2 ∧ ({ a with pointer1 := .d2 } : Arbiter).chooseHead.head = some .d3 ∧
    ({ a with due0 := true } : Arbiter).chooseHead.head = some .d1 ∧
    ((passed 35).head, (passed 35).requests.get .d2) = (some .d1, none) ∧
    ((passed 20).head, (passed 20).requests.get .d2) = (some .d1, some ⟨⟨2, 1⟩, 1, 30, 0⟩) ∧
    ((passed 400).head, (passed 400).requests.get .d3) = (none, none) ∧
    ((drivenBy .move 340 .powering none 600).cab.grantTo .d1 ⟨⟨1, 1⟩, 0, 30, 0⟩).arb.window.get .d1 = some 400 ∧
    ([slide, { slide with enabled := false }, { slide with ref := .referenceFault }].map fun a =>
      (({ sequenced (step1 .move 340 .powering) a .none with
        set := { defaultSettings with limits := { defaultLimits with stream := true } } } : Cabin).grantTo .d1
          ⟨⟨1, 1⟩, 0, 30, 0⟩).streams.get .d1) = [some 100, none, none] := by
  decide +kernel

/-- A grant that finds D1 occupied fails the step of a restricted axis in its own event, and the order's other step is SKIPPED at once. -/
theorem test_refused_grant_fails_in_its_event :
    let headrest : Step := { step1 .move 200 .powering with axis := .headrest }
    let o : Order := { order1 headrest with steps := [headrest, { step1 .move 340 .powering with index := 2, dock := .d2 }] }
    let c := (ordered o { seat with occupancy := .occupied }).cab.grantTo .d1 ⟨⟨1, 1⟩, 0, 30, 0⟩
    ((c.pool.recs.get .s0).map fun o => (o.steps.map (·.state), o.firstFailure.map (·.reason))) =
      some ([.failed, .skipped], some .occupied) ∧ c.arb.grants = [] := by
  decide +kernel

/-- A fold-path touch that is told in a move's first answered frame finds the filtered current of that frame (R135, R144). -/
theorem test_first_frame_filtered_before_told :
    let c := ((drivenBy .move 340 .starting none 480).cab.modMove .d1 fun m =>
      { m with watch := { m.watch with filtered := none } }).movingFrame .d1 ⟨[0, 0, 0, 0], 1500, false, ⟨true, true⟩, [0, 0, 0]⟩ (-3)
    let t := c.obstruct .d1 .foldPath (some .back)
    ((t.pool.recs.get .s0).bind fun o => (o.steps[0]?).bind (·.obstruction)).map (fun r => (r.cause, r.filtered)) =
      some (.foldPath, some 1500) := by
  decide +kernel

/-- Bindings at the ends of the table of R166, of each gesture and action, and ones that break it: zone 4, no zone for a TAP and one for a
FLICK, layouts 0 and 25, dock 6, gesture 4, an INVOKE of SWIPE_HOLD and a JOG of TAP. -/
theorem witness_WriteBindingsReplacesTheTable :
    (∀ x ∈ ([⟨0, some 3, 0, 24⟩, ⟨0, some 0, 1, 5⟩, ⟨1, none, 0, 1⟩, ⟨2, none, 1, 1⟩, ⟨3, none, 2, 5⟩] : List RawBinding), x.WellFormed) ∧
    ∀ x ∈ ([⟨0, some 4, 0, 24⟩, ⟨0, none, 0, 24⟩, ⟨1, some 0, 0, 1⟩, ⟨1, none, 0, 0⟩, ⟨2, none, 0, 25⟩, ⟨2, none, 1, 6⟩, ⟨4, none, 2, 5⟩,
      ⟨3, none, 0, 1⟩, ⟨0, some 3, 2, 1⟩] : List RawBinding), ¬ x.WellFormed := by
  have of {x : RawBinding} (h : (bindingOf? x).isSome = true) : x.WellFormed :=
    (bindingOf?_makes (Option.some_get h).symm).1
  have off {x : RawBinding} (h : bindingOf? x = none) : ¬ x.WellFormed := fun w => by
    obtain ⟨y, hy⟩ := bindingOf?_of_wellFormed w
    rw [h] at hy
    cases hy
  exact ⟨fun x hx => of ((by decide +kernel : ∀ x ∈ _, (bindingOf? x).isSome = true) x hx),
    fun x hx => off ((by decide +kernel : ∀ x ∈ _, bindingOf? x = none) x hx)⟩

/-- D1's CUSHION in a state, at a filtered count. -/
def cushioned (st : ChanState) (F : Nat) : DockRec :=
  { seat with chans := [{ calm .cushion with state := st, filtered := some F }, calm .back] }

/-- A channel in TUNING, one in the band's last count, one out of it with a step in motion; an axis; a dock not READY; a channel and an axis
that D1 does not have. -/
theorem witness_ReseedsTakeTheirReference :
    (((withDock (cushioned .tuning 800)).cab.dock .d1).chan? .cushion).any (fun x => x.state = .tuning) = true ∧
    (((withDock (cushioned .none 900)).cab.dock .d1).chan? .cushion).any (fun x => x.filtered = some 900) = true ∧
    defaultLimits.inBand 900 = true ∧ defaultLimits.inBand 901 = false ∧
    (ordered (order1 (step1 .move 340 .running)) (cushioned .none 901)).cab.inMotion .d1 = true ∧
    ((withDock (cushioned .none 900)).cab.dock .d1).chans.countP (fun c => c.kind = Channel.cushion.kind) = 1 ∧
    (seated.cab.axis? .d1 .slide).isSome = true ∧ (State.reset.cab.dock .d1).state ≠ .ready ∧
    ((seated.cab.dock .d1).chan? .lid).isNone = true ∧ (seated.cab.axis? .d1 .well).isNone = true := by decide +kernel

/-- A RESEED out of the band on a dock with no step in motion begins tuning. -/
theorem witness_reseed_tunes : (withDock (cushioned .none 901)).cab.activeOrders = [] ∧
    (leaves (.reseed (from_ 1284) 1 0) (withDock (cushioned .none 901)) fun t =>
      (((t.cab.dock .d1).chan? .cushion).map fun x => (x.state, x.comp), (t.cab.dock .d1).occupancy)) =
      some (some (.tuning, 512), .unknown) := by decide +kernel

/-- Eight waiting responses, one, and none; a notice pending; AWAKE and SLEEP. -/
theorem witness_ResponsesAndNoticesAreSentInTurn :
    let r : Response := ⟨1296, 0, 7, .ok, none, true, []⟩
    let s : State := { State.reset with
      port := { State.reset.port with queue := List.replicate 8 r }
      cab := State.reset.cab.notify .strip }
    8 ≤ s.port.queue.length ∧ s.port.queue = r :: List.replicate 7 r ∧ s.cab.notices = [⟨.strip, none⟩] ∧
    State.reset.port.queue = [] ∧ State.reset.port.restarted = true ∧ State.reset.port.power ≠ .sleep ∧
    s.cab.set.identifiers.binding? 1280 = some body := by decide +kernel

/-- A SET_BUDGET of profile 5 from SERVICE and from BODY, and a LOOKUP_MATCH marked short, are BAD_ARGUMENT; a frame of SET_BUDGET
with one byte of its two, one that ends where its bindings should stand, and a whole one; an identifier of no binding. -/
theorem witness_frame_check : State.reset.Takes { from_ 1284 with short := false, profile := 0 } service ∧
    requestBytes? (.setBudget ⟨1284, 7, 5, false⟩ 300) = some (18, [1, 44]) ∧
    ([Instr.setBudget ⟨1284, 7, 5, false⟩ 300, .setBudget ⟨1280, 7, 5, false⟩ 300, .lookupMatch ⟨1280, 7, 4, true⟩].map fun i =>
      answer i State.reset) = List.replicate 3 (some (.badArgument, none, [])) ∧
    ([([18, 7, 1, 1] : List Byte), [20, 7, 1, 2, 0, 255, 0], [18, 7, 1, 1, 44]].map fun bs =>
      (headerOf? (decodeRequest 1284 bs)).map (·.short)) = [some true, some true, some false] ∧
    State.reset.cab.set.identifiers.binding? 99 = none ∧ State.reset.hear ⟨99, [3, 0, 0]⟩ = State.reset :=
  ⟨takes_of (by decide +kernel), by decide +kernel, by decide +kernel, by decide +kernel, by decide +kernel, by decide +kernel⟩

/-- A STRIP notice has no subject index: the byte carries 255 (R181). PAD_PRESENT is followed by no content (R182). -/
theorem test_strip_notice_has_no_index :
    ((State.reset.cab.noticeFrame false ⟨.strip, some .padPresent⟩).bytes.take 2, (State.reset.cab.noticeFrame false ⟨.strip, none⟩).bytes.length)
      = ([6, 255], 4) := by decide +kernel

/-! ### Witnesses: frames in, and power states -/

theorem witness_VehicleStateIsTaken :
    wordAt [11, 184, 4, 250] 0 ≤ 3000 ∧ Gear.ofCode? (byteAt [11, 184, 4, 250] 2) = some .other ∧ byteAt [11, 184, 4, 250] 3 ≤ 250 ∧
    3000 < wordAt [11, 185, 0, 0] 0 ∧ Gear.ofCode? (byteAt [0, 0, 5, 0] 2) = none ∧ 250 < byteAt [0, 0, 0, 251] 3 ∧
    State.reset.cab.agenda = [] ∧ State.reset.port.power ≠ .sleep ∧
    effectiveBudget State.reset.cab.set.budget 90 = State.reset.cab.arb.budget ∧
    (ordered (order1 (step1 .move 340 .running)) seat).port.parked = true ∧
    (∃ o ∈ (ordered (order1 (step1 .move 340 .running)) seat).cab.activeOrders, o.state = .active) ∧
    dueNow.port.fresh = some 10000 ∧ State.reset.port.fresh = none := by decide +kernel

/-- Two ACTIVE orders: the older waits on D2 in CLAIMING; the newer is RUNNING on D1 and POWERING, with its request, on D3. -/
def twoOrders : Cabin :=
  let c := (ordered (order1 { step1 .move 340 .claiming with dock := .d2, waitStart := some 5 }) (moving (move1 .move 340 none) 500)).cab
  let x : Step := { step1 .move 340 .powering with index := 2, dock := .d3, holds := true }
  { c with
    pool := ⟨c.pool.recs.set .s1 (some { order1 (step1 .move 340 .running) with
      slot := .s1, number := 2, steps := [step1 .move 340 .running, x] }), [.s2, .s3, .s4, .s5, .s6, .s7], [.s0, .s1], 3, none⟩
    arb := { c.arb with requests := c.arb.requests.set .d3 (some ⟨⟨2, 2⟩, 0, 30, 15000⟩) } }

/-- PARKED lost with both (R98): the newer order's step is the first to stop, so its ORDER comes first; both are PAUSED, the wait is
stopped, the request is gone. -/
theorem witness_parked_lost : twoOrders.pool.Named ∧ twoOrders.pool.Parted ∧ twoOrders.notices = [] ∧
    (twoOrders.activeOrders.map fun o => (o.state, (o.steps.map (·.index)).length)) = [(.active, 1), (.active, 2)] ∧
    twoOrders.parkedLost.notices.map (·.subject) = [.order .s1, .order .s0] ∧
    (twoOrders.parkedLost.activeOrders.map fun o => (o.state, o.steps.map fun x => (x.state, x.waitStart, x.stopCause))) =
      [(.paused, [(.claiming, none, none)]), (.paused, [(.stopping, none, some .pause), (.powering, none, none)])] ∧
    twoOrders.parkedLost.arb.requests.get .d3 = none ∧ twoOrders.parkedLost.pool.grace = some 2000 := by
  refine ⟨named_of (by decide +kernel), ?_, by decide +kernel⟩
  show ([Slot.s2, .s3, .s4, .s5, .s6, .s7] ++ [Slot.s0, .s1]).Perm Slot.all
  decide

/-- CANCEL_ALL of two orders, and of one whose cancel is taken: each in turn as CANCEL_ORDER would; the detail counts those changed. -/
theorem witness_cancel_all :
    let s (c : Cabin) : State := { seated with cab := c }
    let once : Cabin := twoOrders.cancelOrder .s0
    (answer (.cancelAll (from_ 1280)) (s twoOrders)).map (·.2.1) = some (some 2) ∧
    (answer (.cancelAll (from_ 1280)) (s { once with agenda := [] })).map (·.2.1) = some (some 1) ∧
    leaves (.cancelAll (from_ 1280)) (s twoOrders) (fun t =>
      [Slot.s0, .s1].map fun x => (t.cab.pool.recs.get x).map fun o => o.steps.map (·.state)) =
      some [some [.skipped], some [.stopping, .skipped]] := by
  decide +kernel

/-- PARKED back with both orders PAUSED (R99): both are ACTIVE, their ORDER subjects pending in turn; the newer order's step in POWERING asks
again, then the older one's in CLAIMING makes an attempt, then the docks are tested. -/
theorem witness_parked_back :
    let pause (o : Order) : Order := { o with state := .paused }
    let c : Cabin := { twoOrders with pool := { twoOrders.pool with
      recs := (twoOrders.pool.recs.set .s0 ((twoOrders.pool.recs.get .s0).map pause)).set .s1 ((twoOrders.pool.recs.get .s1).map pause)
      grace := some 2000 } }
    c.pool.Named ∧ (c.activeOrders.map (·.state)) = [.paused, .paused] ∧ c.notices = [] ∧
    (c.parkedBack.activeOrders.map (·.state)) = [.active, .active] ∧
    c.parkedBack.notices.map (·.subject) = [.order .s0, .order .s1] ∧ c.parkedBack.pool.grace = none ∧
    c.parkedBack.agenda = [.request ⟨2, 2⟩, .attempt ⟨1, 1⟩] ++ Dock.all.map Task.testDock := by
  refine ⟨named_of (by decide +kernel), ?_⟩
  decide +kernel

theorem witness_IntrusionSetsTheFrontHolders : State.reset.cab.map.Sound ∧ State.reset.port.power ≠ .sleep ∧
    State.reset.cab.activeOrders = [] ∧ State.reset.intrusion = some 1000 ∧
    ({ State.reset with intrusion := none } : State).intrusion = none ∧ 2 ≤ ([250, 251] : List Byte).length :=
  ⟨map_sound_of (by decide +kernel), by decide +kernel, by decide +kernel, rfl, rfl, by decide⟩

/-- With an order active that waits on FRONT_L, a frame of 250 and 101 sets both front holders' cells, columns 0 to 2 and 0 to 1, and the
step waits on; one of 0 and 0 lets D1's step claim the cells set free, and the front holders hold and list none. -/
theorem witness_intrusion_with_orders :
    let s := ordered (order1 { step1 .move 340 .claiming with waitStart := some 0, blocker := some (.external .frontL) }) seat
    let front (m : CellMap) (h : Holder) : CellSet := (m.heldBy h).union (m.listed.get h)
    let s' := { s with cab := { s.cab with map := s.cab.map.install .frontL (frontSet .left 250) } }
    s.cab.agenda = [] ∧ s.port.power ≠ .sleep ∧
    leaves (.intrusionFrame [250, 101]) s (fun t => (stepOf t.cab, front t.cab.map .frontL, front t.cab.map .frontR)) =
      some (some .claiming, frontSet .left 250, frontSet .right 200) ∧
    leaves (.intrusionFrame [0, 0]) s' (fun t => (stepOf t.cab, front t.cab.map .frontL, (t.cab.map.heldBy (.dock .d1)).card)) =
      some (some .powering, .empty, 27) := by decide +kernel

/-- SLEEP with each kind of dock state that a wake reaches. -/
def asleep (st : DockState) : State :=
  { withDock { seat with state := st } with port := { State.reset.port with power := .sleep, quiet := none } }

theorem witness_PowerStatesChange : State.reset.sleepHolds = true ∧ (withDock { seat with state := .seating }).sleepHolds = false ∧
    (asleep .ready).port.power = .sleep ∧ (asleep .ready).port.sleepHeld = false ∧ (asleep .ready).cab.agenda = [] ∧
    ((asleep .enrolling).cab.dock .d1).state = .enrolling ∧ ((asleep .silent).cab.dock .d1).state = .silent ∧
    State.reset.port.quiet = some 60000 ∧ State.reset.port.power = .awake ∧ State.reset.port.sleepHeld = false ∧
    (asleep .ready).port.quiet = none := by decide +kernel

/-- R160 at a wake: channels and electrodes in TUNING, in FAULT and in NONE. -/
theorem witness_woken_channels :
    let x (st : ChanState) : Chan := { calm .cushion with state := st, search := 8, adjusted := 3, clean := 4, fault := some .saturated }
    let l := [x .tuning, x .fault, x .none]
    let s : State := { asleep .ready with
      cab := { (asleep .ready).cab with docks := (asleep .ready).cab.docks.map fun r => { r with chans := l } }, pad := ⟨true, 0, l, none⟩ }
    let seen (l : List Chan) := l.map fun y => [y.comp, y.search, y.adjusted, y.clean]
    leaves .canWake s (fun t => [seen (t.cab.dock .d1).chans, seen t.pad.electrodes]) =
      some (List.replicate 2 [[512, 256, 0, 4], [650, 8, 3, 0], [650, 8, 3, 4]]) := by decide +kernel

/-- A dock asleep in ENROLLING with a BASE page taken keeps it at the wake (R24), and begins from OPEN when the delay has expired; the
unanswered count goes to 0 with it. -/
theorem test_wake_keeps_the_exchange :
    let x : Exchange := { newExchange with toggle := true, base := some captain, wanted := .axis }
    let s : State := { withDock { seat with state := .enrolling, exchange := some x, unanswered := 3, power := false } with
      port := { State.reset.port with power := .sleep, quiet := none } }
    let seen (t : State) := ((t.cab.dock .d1).exchange, (t.cab.dock .d1).unanswered, (t.cab.dock .d1).powerUp)
    (after .canWake s).map seen = some (some x, 3, some 50) ∧
    ((after .canWake s).bind fun t => (after (.powerUpDelayExpiry .d1) t).map seen) = some (some newExchange, 0, none) ∧
    (asleep .seating).cab.dock .d1 = { seat with state := .seating } := by decide +kernel

/-- The part in DOZE, its next round 95 ms away. -/
def dozing (s : State) : State :=
  { s with port := { s.port with power := .doze, quiet := none }, link := { s.link with boundary := 95 } }

/-- Power state, poll period boundary and quiet timer after a command. -/
def wakes (i : Instr) (s : State) : Option (PowerState × Nat × Timer) := leaves i s fun t => (t.port.power, t.link.boundary, t.port.quiet)

/-- Requests taken in DOZE: a kind known and unknown, a bad profile, and the two that stay there; a status frame of READY D1 with its
switches changed and as they were; a latch line that closes alone. -/
theorem witness_doze_left :
    let h : ReqHdr := ⟨1280, 1, 9, true⟩
    let awake := some (PowerState.awake, 10, some 60000)
    let doze := some (PowerState.doze, 95, none)
    (dozing seated).Takes { h with short := false, profile := 0 } body ∧
    ([Instr.cancelAll (from_ 1280), .badRequest (from_ 1280) 99, .lookupMatch h, .reseed (from_ 1284) 1 0,
      .reseedBaseline (from_ 1284) 1 0].map fun i => wakes i (dozing seated)) = [awake, awake, awake, doze, doze] ∧
    ([true, false].map fun w => wakes (.dockPollAnswered .d1 (encodeStatus .d1 [600, 0, 0, 0] 0 0 ⟨w, false⟩ [800, 800, 0]))
      (dozing (polling (.dock .d1) seated))) = [awake, doze] ∧
    wakes (.latchWake .d1 .a true) (dozing State.reset) = doze :=
  ⟨takes_of (by decide +kernel), by decide +kernel, by decide +kernel, by decide +kernel⟩

theorem witness_StreamTimersMakePosturePending :
    ({ seated with cab := { seated.cab with streams := seated.cab.streams.set .d1 (some 100) } } : State).cab.streams.get .d1 = some 100 ∧
    seated.cab.inMotion .d1 = false ∧ (ordered (order1 (step1 .move 340 .running)) seat).cab.inMotion .d1 = true ∧
    seated.cab.streams.get .d1 = none ∧ (seated.port.sleepHeld = true → seated.port.power ≠ .sleep ∧ seated.sleepHolds = false) := by
  decide +kernel

/-! ### Witnesses: latches and docks -/

/-- D1 in a state with both latches closed. -/
def latched (st : DockState) (o : Option SeatOrigin) : State :=
  { ordered (order1 (step1 .move 340 .pending)) { seat with state := st, origin := o } with latchA := .rep true, latchB := .rep true }

theorem witness_LatchEventsMoveTheDock : State.reset.locked .d1 = false ∧ (State.reset.cab.dock .d1).state = .empty ∧
    ((withDock { seat with state := .vacating }).cab.dock .d1).state = .vacating ∧
    ((latched .seating (some .fresh)).cab.dock .d1).state = .seating ∧ ((latched .seating (some .fresh)).cab.dock .d1).origin = some .fresh ∧
    ((latched .seating (some .relatch)).cab.dock .d1).origin = some .relatch ∧ ((latched .ready none).cab.dock .d1).state = .ready ∧
    (latched .ready none).latch .d1 .a = true ∧ (latched .ready none).cab.agenda = [] ∧
    (∃ o ∈ (latched .ready none).cab.activeOrders, (o.leaves? .d1).isSome = true ∧ o.firstFailure = none ∧ o.cancelTaken = false) ∧
    State.reset.latch .d1 .a = false ∧ ({ State.reset with latchB := .rep true } : State).latch .d1 .b = true := by
  decide +kernel

/-- D1 in each state that a latch opening leaves, with no order active. -/
theorem witness_latches_without_orders :
    let s (st : DockState) (o : Option SeatOrigin) : State :=
      { withDock { seat with state := st, origin := o } with latchA := .rep true, latchB := .rep true }
    (s .ready none).cab.activeOrders = [] ∧ (s .seating (some .fresh)).latch .d1 .a = true ∧
    (leaves (.latchOpen .d1 .a) (s .ready none) fun t => (t.cab.dock .d1).state) = some .vacating ∧
    (leaves (.latchOpen .d1 .a) (s .seating (some .fresh)) fun t => (t.cab.dock .d1).state) = some .empty := by decide +kernel

/-- D1 with its SLIDE's step RUNNING in the sweep it has claimed, its right lane held by FRONT_R and listed. -/
def leaving : Cabin :=
  let c := (ordered (order1 { step1 .move 340 .running with holds := true }) (moving (move1 .move 340 none) 500)).cab
  let m := (c.map.install .frontR (frontSet .right 250)).install (.dock .d1) (frontSet .right 250)
  { c with map := ((m.claim .d1 ((c.dock .d1).sweep .slide 340 600)).toOption).getD m }

/-- A latch opens under D1's moving step: the step fails, the cells and the overlap list stand, the reservation is gone; and the part
leaves DOZE at it. -/
theorem witness_removed_in_motion :
    (leaving.dock .d1).state = .ready ∧ leaving.pool.Named ∧ (∀ o ∈ leaving.activeOrders, ∀ x ∈ o.steps, x.holds = true → x.dock = .d1) ∧
    leaving.activeOrders ≠ [] ∧ (leaving.map.reserved.get .d1).isSome = true ∧ (leaving.map.listed.get (.dock .d1)).isEmpty = false ∧
    (leaving.enterVacating .d1).map = leaving.map.unreserve .d1 ∧ stepOf (leaving.enterVacating .d1) = some .failed ∧
    (wakes (.latchOpen .d1 .a) (dozing (latched .ready none))).map (fun p => (p.1, p.2.1)) = some (.awake, 10) :=
  ⟨by decide +kernel, named_of (by decide +kernel), by decide +kernel, by decide +kernel, by decide +kernel, by decide +kernel,
    by decide +kernel, by decide +kernel, by decide +kernel⟩

/-- D1 with every timer running. -/
def timed : State :=
  withDock { seat with settle := some 200, powerUp := some 50, pageLimit := some 20, silence := some 2000, hold := some 5000 }

theorem witness_DockTimersExpire : (timed.cab.dock .d1).settle = some 200 ∧ (timed.cab.dock .d1).powerUp = some 50 ∧
    (timed.cab.dock .d1).pageLimit = some 20 ∧ (timed.cab.dock .d1).silence = some 2000 ∧ (timed.cab.dock .d1).hold = some 5000 ∧
    timed.cab.agenda = [] ∧ (seated.cab.dock .d1).settle = none ∧ (seated.cab.dock .d1).powerUp = none ∧
    (seated.cab.dock .d1).pageLimit = none ∧ (seated.cab.dock .d1).silence = none ∧ (seated.cab.dock .d1).hold = none := by
  decide +kernel

/-- A delay that expires with dock power in ENROLLING and in READY, and one without. -/
theorem witness_delays_expire :
    let s (st : DockState) (power : Bool) : State := withDock { seat with state := st, powerUp := some 50, unanswered := 3, power := power }
    ([(DockState.enrolling, true), (.ready, true), (.enrolling, false)].map fun p =>
      leaves (.powerUpDelayExpiry .d1) (s p.1 p.2) fun t => ((t.cab.dock .d1).unanswered, (t.cab.dock .d1).exchange)) =
      [some (0, some newExchange), some (0, none), some (3, none)] ∧
    (s .enrolling true).port.sleepHeld = false := by decide +kernel

/-! ### Witnesses: the Seat Link -/

/-- D1 ENROLLING on a page limit, its exchange record as given. -/
def enrolling (x : Exchange) : State :=
  { withDock { seat with state := .enrolling, exchange := some x, pageLimit := some 20 } with
    link := { State.reset.link with left := [] } }

theorem witness_RoundsBeginAtTheBoundary : State.reset.link.left ≠ [] ∧ (enrolling newExchange).link.left = [] ∧
    (State.reset.cab.dock .d1).state = .empty ∧ State.reset.cab.agenda = [] ∧ State.reset.port.power ≠ .sleep ∧
    ({ seated with link := { seated.link with left := [] } } : State).link.left = [] ∧ (seated.cab.dock .d1).state = .ready ∧
    (seated.cab.dock .d1).powerUp = none ∧ ((enrolling newExchange).cab.dock .d1).exchange = some newExchange ∧
    (Cabin.pageDue newExchange).isSome = true := by decide +kernel

/-- A round whose first slot is that of a SILENT dock that owes its timer, of a FAULTED one, and of a FAULTED one that owes a VERDICT page. -/
theorem witness_first_slots :
    let s (r : DockRec) : State := { withDock r with link := { State.reset.link with left := [] } }
    let sent (r : DockRec) := leaves .pollRound (s r) fun t => (t.link.left.head?, (t.cab.dock .d1).silence, (t.cab.dock .d1).verdictDue)
    sent { seat with state := .silent, silenceOwed := true } = some (some (.dock .d1), some 2010, none) ∧
    sent { seat with state := .faulted, fault := some .noResponse } = some (some (.dock .d1), none, none) ∧
    sent { seat with state := .faulted, fault := some .noResponse, verdictDue := some .noResponse, exchange := some newExchange } =
      some (some .pad, none, none) := by decide +kernel

/-- A round goes on from D1's slot past the EMPTY D2 and D3 to D4, READY and owing a VERDICT page, and to the pad where D4 is EMPTY too; at its
end the round is over, or the one due begins at D1. -/
theorem witness_rounds_go_on :
    let at_ (r : DockRec) (l : List LinkSlot) (due : Bool) : State :=
      let s := { seated with cab := seated.cab.setDock .d4 r }
      { s with link := { s.link with left := .dock .d1 :: l, answerBy := some 1, due := due, tx := [] } }
    let rest : List LinkSlot := [.dock .d2, .dock .d3, .dock .d4, .pad]
    let seen (t : State) := (t.link.left, t.link.answerBy, t.link.due, t.link.tx.length)
    let owing : DockRec := { seat with state := .faulted, fault := some .noResponse, verdictDue := some .noResponse, exchange := some newExchange }
    [seen ((at_ seat rest false).advance (.dock .d1)), seen ((at_ emptyDock rest true).advance (.dock .d1)),
      seen ((at_ owing rest false).advance (.dock .d1)), seen ((at_ seat [] false).advance (.dock .d1)),
      seen ((at_ seat [.dock .d2] true).advance (.dock .d1))] =
      [([.dock .d4, .pad], some 1, false, 1), ([.pad], some 1, true, 1), ([.pad], some 1, false, 2), ([], none, false, 0),
        ([.dock .d1, .dock .d4, .pad], some 1, false, 1)] ∧
    (at_ seat rest false).advance .pad = at_ seat rest false ∧
    [leaves (.dockPollAnswered .d1 (encodeStatus .d1 [600, 0, 0, 0] 0 0 ⟨false, false⟩ [800, 800, 0])) (at_ seat rest false) fun t => t.link.left,
      leaves (.dockPollUnanswered .d1) (at_ seat rest false) fun t => t.link.left] = [some [.dock .d4, .pad], some [.dock .d4, .pad]] := by
  decide +kernel

/-- A round sends D1's drive command: its setpoint is the last one sent. -/
theorem test_last_setpoint_sent :
    leaves .pollRound (let s := drivenBy .move 340 .running none 500
      { s with cab := s.cab.modDock .d1 fun r => { r with command := .drive 0 .decrease 794 }, link := { s.link with left := [] } })
      (fun t => (t.cab.driven? .d1).map (·.2.lastSetpoint)) = some (some 794) := by decide +kernel

theorem witness_AnsweredPollsAreTaken : (polling (.dock .d1) seated).polled .d1 = true ∧
    (polling (.dock .d1) seated).inTime = true ∧
    ({ polling (.dock .d1) seated with cab := { seated.cab with now := 2 } } : State).inTime = false ∧
    decodeStatus .d1 (encodeStatus .d1 [600, 0, 0, 0] 0 0 ⟨true, false⟩ [800, 800, 0]) =
      some ⟨[600, 0, 0, 0], 0, false, ⟨true, false⟩, [800, 800, 0]⟩ ∧
    (seated.cab.dock .d1).switches ≠ some ⟨true, false⟩ ∧ decodeStatus .d1 [] = none ∧
    (polling (.dock .d2) seated).polled .d1 = false ∧ seated.polled .d1 = false ∧
    (polling (.dock .d1) (withDock { seat with state := .silent })).polled .d1 = true := by
  decide +kernel

/-- The rows of R158: not READY; the anchor latched; each state of the CUSHION, and none; a change that is told, and a restricted step in
CLAIMING and POWERING that it fails. -/
theorem witness_occupancy :
    ({ seat with state := .silent }.decideOccupancy, { seat with switches := some ⟨false, true⟩ }.decideOccupancy,
      { seat with chans := [] }.decideOccupancy) = (.unknown, .child, .unknown) ∧
    ([ChanState.touch, .tuning, .fault, .none, .prox].map fun st =>
      { seat with chans := [{ calm .cushion with state := st }] }.decideOccupancy) =
      [.occupied, .unknown, .unknown, .none, .none] ∧
    ((withDock { seat with chans := [] }).cab.decideOccupancy .d1).agenda = [.occupancyTold .d1] ∧
    seated.cab.decideOccupancy .d1 = seated.cab ∧
    ((seated.cab.modChan .d1 .cushion fun x => { x with state := .touch }).dock .d1).occupancy = .occupied ∧
    ([StepState.claiming, .powering].map fun st =>
      let c := (ordered (order1 { step1 .move 200 st with axis := .headrest }) { seat with occupancy := .occupied }).cab
      (c.inMotion .d1, (Cabin.runTask (.occupancyTold .d1) c).pool.recs.get .s0 |>.bind fun o => (o.steps[0]?).map (·.state))) =
      [(false, some .failed), (false, some .failed)] := by decide +kernel

/-- Counts 3 and 4 of a READY dock with an order on it. -/
theorem witness_UnansweredPollsAreCounted :
    let s (n : Nat) := polling (.dock .d1)
      (ordered (order1 (step1 .move 340 .running)) { moving (move1 .move 340 none) 500 with unanswered := n })
    (s 3).polled .d1 = true ∧ ((s 3).cab.dock .d1).state = .ready ∧ ((s 3).cab.dock .d1).unanswered < 4 ∧
    4 ≤ ((s 4).cab.dock .d1).unanswered ∧ ((s 4).cab.driven? .d1).isSome = true ∧
    (∃ o ∈ (s 4).cab.activeOrders, (o.leaves? .d1).isSome = true) := by decide +kernel

/-- The fifth missed poll of a dock that moves its SLIDE, and of one that moves nothing, with no order active, and with one whose claims
are all of that dock. -/
theorem witness_silence_sweeps :
    let m := (moving (move1 .move 340 none) 500)
    (polling (.dock .d1) (withDock { m with unanswered := 4 })).cab.activeOrders = [] ∧
    ((withDock m).cab.driven? .d1).map (fun p => p.1.kind) = some .slide ∧ (seated.cab.driven? .d1).isNone = true ∧
    (∀ o ∈ (ordered (order1 { step1 .move 340 .running with holds := true }) m).cab.activeOrders, ∀ x ∈ o.steps,
      x.holds = true → x.dock = .d1) ∧
    (ordered (order1 { step1 .move 340 .running with holds := true }) m).cab.pool.Named := by
  refine ⟨by decide +kernel, by decide +kernel, by decide +kernel, by decide +kernel, named_of (by decide +kernel)⟩

/-- A BASE page of 4 axes and one of 5; AXIS pages with and without MORE; a verdict that accepts and one that rejects. -/
theorem witness_NodePagesDriveTheExchange :
    (decodePage .d1 (encodePage .d1 ⟨false, true, true, .base captain⟩)) = some ⟨false, true, true, .base captain⟩ ∧
    decodePage .d1 [] = none ∧ 1 ≤ captain.axisCount ∧ captain.axisCount ≤ 4 ∧ 4 < { captain with axisCount := 5 }.axisCount ∧
    ((enrolling newExchange).cab.dock .d1).pageLimit = some 20 ∧ (pages.take 2).length + 1 < captain.axisCount ∧
    ¬ (pages.take 3).length + 1 < captain.axisCount ∧ ((enrolling newExchange).cab.dock .d1).placement = some placed ∧
    (enrolling newExchange).cab.now ≤ 20 ∧ (20 < { (enrolling newExchange).cab with now := 21 }.now) := by
  decide +kernel

/-- An ACKNOWLEDGE page that announces more pages fails the exchange (R17 check 5). -/
theorem witness_NodePages_acknowledge_more :
    let bs := encodePage .d1 ⟨false, true, true, .acknowledge⟩
    let s := enrolling { newExchange with wanted := .acknowledge, base := some captain, pages := pages, entry := some captainRev2 }
    decodePage .d1 bs = some ⟨false, true, true, .acknowledge⟩ ∧
    leaves (.nodePage .d1 bs) s (fun t => ((t.cab.dock .d1).state, (t.cab.dock .d1).fault)) =
      some (.faulted, some .pageSequence) := by decide +kernel

theorem witness_NodePages_verdicts : verdict builtInGeometry placed.place captain pages = .ok captainRev2 ∧
    verdict builtInGeometry placed.place { captain with revision := 9 } pages = .error .unknownGeometry := ⟨rfl, rfl⟩

/-- The tests of R18 in their order, each the first that fails; an entry whose stations of RECLINE lie a
permille apart, less than a count. -/
theorem witness_NodePages_tests :
    let all (f : AxisPage → AxisPage) : List AxisPage := pages.map f
    let from_ (table : List GeomEntry) (i : Identity) (l : List AxisPage) : Option DockFault :=
      match verdict table placed.place i l with
      | .ok _ => none
      | .error why => some why
    let told := from_ builtInGeometry
    let near : GeomEntry := { captainRev2 with recline := [⟨0, [], false⟩, ⟨1, [], false⟩] }
    [told captain pages, told { captain with kind := .third, revision := 9 } [], told { captain with revision := 9 } [],
      told { captain with axisCount := 5 } pages, told captain (pages.take 3), told captain pages.reverse] =
      [none, some .kindNotAllowed, some .unknownGeometry, some .axisMismatch, some .axisMismatch, some .axisMismatch] ∧
    ([fun p => { p with travel := 15 }, fun p => { p with travel := 60001 }, fun p => { p with pitch := 9 }, fun p => { p with rated := 4 },
      fun p => { p with rated := 151 }, fun p => { p with maxSpeed := 19 }, fun p => { p with maxSpeed := 2001 },
      fun p => { p with nominal := p.stallThreshold }].map fun f => told captain (all f)) = List.replicate 8 (some .axisMismatch) ∧
    from_ [near] captain pages = some .axisMismatch := by
  decide +kernel

/-- The unit of the exchange accepted in D1: CUSHION and BACK in TUNING, no LID; FACTORY records validated again, the match with them. -/
theorem witness_acceptance :
    let c := (withDock { seat with state := .enrolling, identity := none, axes := [], chans := [] }).cab.accepted .d1
      { captain with channels := [.cushion, .back, .lid] } pages captainRev2
    ((c.dock .d1).chans.map fun x => (x.kind, x.state, x.comp, x.search)) =
      [(.cushion, .tuning, 512, 256), (.back, .tuning, 512, 256)] ∧
    (c.layouts.match_, c.layouts.live.map (·.validation)) = (some 1, [.partial_, .partial_, .partial_, .partial_, .feasible, .noMatch]) ∧
    c.Pends (.layout 1) ∧ c.Pends (.posture .d1) ∧ State.reset.cab.layouts.Sound := by
  refine ⟨by decide +kernel, by decide +kernel, ?_, ?_, layouts_sound⟩ <;> unfold Cabin.Pends <;> decide +kernel

theorem witness_PadPollsAreTaken : State.reset.awaits .pad = true ∧ State.reset.inTime = true ∧
    (polling (.dock .d1) State.reset).awaits .pad = false ∧ decodePad (encodePad [800, 800, 800, 0]) = some [800, 800, 800, 0] ∧ decodePad [] = none ∧
    State.reset.pad.present = false ∧
    ({ State.reset with pad := ⟨true, 3, List.replicate 4 (newChan .strip), none⟩ } : State).pad.unanswered < 4 ∧
    4 ≤ ({ State.reset with pad := ⟨true, 4, List.replicate 4 (newChan .strip), none⟩ } : State).pad.unanswered ∧
    (asleep .ready).port.power = .sleep := by decide +kernel

/-- A PRESENT pad with four calm electrodes, the second in a state with re-tune due, at a touch begun at 0 or none. -/
def padded (t : Option Touch) (st : ChanState) : State :=
  let x := calm .strip
  { polling .pad State.reset with pad := ⟨true, 2, [x, { x with state := st, retune := true }, x, x], t⟩ }

/-- What a poll answered with 800 at each electrode leaves of the electrodes' states and of the touch. -/
def polledPad (t : Option Touch) (st : ChanState) : Option (List ChanState × Bool) :=
  leaves (.padPollAnswered (encodePad [800, 800, 800, 800])) (padded t st) fun t => (t.pad.electrodes.map (·.state), t.pad.touch.isSome)

/-- An electrode with re-tune due begins tuning at the frame that is a release, and not while the strip is touched nor at a frame of an
untouched strip. -/
theorem witness_electrode_frames :
    let held : Touch := ⟨.touching, 0, 63, 63, 0, 0⟩
    polledPad (some held) .prox = some ([.none, .tuning, .none, .none], false) ∧
    polledPad (some held) .touch = some ([.none, .touch, .none, .none], true) ∧
    polledPad none .prox = some ([.none, .prox, .none, .none], false) := by decide +kernel

/-- A touch start: TOUCHING at this moment, the part AWAKE from DOZE. -/
theorem witness_touch_start :
    let s := padded none .touch
    polledPad none .touch = some ([.none, .touch, .none, .none], true) ∧
    leaves (.padPollAnswered (encodePad [800, 800, 800, 800])) { s with port := { s.port with power := .doze } } (fun t =>
      (t.pad.touch.map fun p => (p.phase, p.startTime, p.startPos), t.port.power)) = some (some (.touching, 0, 0), .awake) := by
  decide +kernel

/-- A touch in progress at 1000 ms on a PRESENT pad with four unanswered polls, the second electrode in a state, under the bindings. -/
def swiped (t : Touch) (st : ChanState) : State :=
  let s := polling .pad (bound 1000)
  let x := calm .strip
  { s with link := { s.link with answerBy := some 1001 }, pad := ⟨true, 4, [x, { x with state := st }, x, x], some t⟩ }

/-- The same in HELD, with the jog it began and the jog's step in CLAIMING. -/
def jogged : State :=
  let s := swiped ⟨.held, 400, 40, 80, 40, 600⟩ .prox
  { s with cab := { s.cab with pool := (ordered (order1 (step1 .jog 1200 .claiming)) seat).cab.pool, jog := some ⟨1, .d1⟩ } }

/-- A touched frame of 600 ms begins a jog; a TAP moves D1's TUMBLE and a flick is refused at their releases; a release from HELD and the
loss of the pad in HELD end the jog, its step SKIPPED and its order DONE. -/
theorem witness_touches_act :
    let frame : Instr := .padPollAnswered (encodePad [800, 800, 800, 800])
    let ended (i : Instr) := leaves i jogged fun t => (t.cab.jog, causeOf t.cab, (t.cab.pool.recs.get .s0).map (·.state), t.cab.agenda.length)
    leaves frame (swiped ⟨.touching, 400, 40, 80, 40, 0⟩ .touch) touched = some ([(.slide, 1200)], some 1, []) ∧
    leaves frame (swiped ⟨.touching, 600, 63, 24, 39, 0⟩ .none) touched = some ([(.tumble, 900)], none, []) ∧
    leaves frame (swiped ⟨.touching, 401, 80, 40, 40, 0⟩ .none) touched =
      some ([], none, [⟨.strip, some (.refused ⟨.flickFwd, 0, 80, 3, .dockNotReady, none⟩)⟩]) ∧
    ended frame = some (none, some (.skipped, none), some .done, 0) ∧
    ended .padPollUnanswered = some (none, some (.skipped, none), some .done, 0) ∧
    jogged.awaits .pad = true ∧ jogged.inTime = true :=
  ⟨by decide +kernel, by decide +kernel, by decide +kernel, by decide +kernel, by decide +kernel, by decide +kernel,
    by decide +kernel⟩

/-! ### Witnesses: timers of orders, axes, channels, the strip and the store -/

/-- A waiting step with a blocker. -/
def waiting (b : Blocker) : Order := order1 { step1 .move 340 .claiming with waitStart := some 0, blocker := some b }

/-- A POWERING step with its request, a STARTING step with its window, and the pause grace timer over a PAUSED order. -/
def arbitrated (st : StepState) : State :=
  let s := ordered { order1 (step1 .move 340 st) with state := .paused } (moving (move1 .move 340 none) 600)
  { s with cab := { s.cab with
    pool := { s.cab.pool with grace := some 2000 }
    arb := { s.cab.arb with
      requests := s.cab.arb.requests.set .d1 (some ⟨⟨1, 1⟩, 0, 30, 15000⟩)
      window := s.cab.arb.window.set .d1 (some 400) } } }

theorem witness_OrderTimersFailTheirOrders :
    (∃ o ∈ (ordered (waiting (.dock .d2)) seat).cab.activeOrders, ∃ x ∈ o.steps, (∀ y ∈ o.steps, y.index = x.index → y = x) ∧
      x.state = .claiming ∧ x.waitStart = some 0 ∧ x.blocker = some (.dock .d2)) ∧
    (arbitrated .starting).cab.pool.grace = some 2000 ∧
    (∃ o ∈ (arbitrated .powering).cab.activeOrders, o.state = .paused ∧ (o.steps.find? fun y => y.state.waiting).isSome = true) ∧
    (∃ o ∈ (arbitrated .starting).cab.activeOrders, (∀ y ∈ o.steps, y.state.waiting = false) ∧
      (o.steps.find? fun y => !y.state.terminal).isSome = true) ∧
    (arbitrated .starting).cab.arb.window.get .d1 = some 400 ∧ (arbitrated .starting).cab.agenda = [] ∧
    (arbitrated .starting).cab.movingStep? .d1 =
      some ({ order1 (step1 .move 340 .starting) with state := .paused }, step1 .move 340 .starting) ∧
    ((arbitrated .starting).cab.driven? .d1).any (fun p => (arbitrated .starting).cab.step? p.2.step =
      some ({ order1 (step1 .move 340 .starting) with state := .paused }, step1 .move 340 .starting)) = true ∧
    (arbitrated .powering).cab.step? ⟨1, 1⟩ =
      some ({ order1 (step1 .move 340 .powering) with state := .paused }, step1 .move 340 .powering) ∧
    (arbitrated .starting).cab.arb.window.get .d2 = none ∧ (arbitrated .starting).cab.arb.requests.get .d2 = none ∧
    (∀ o ∈ (arbitrated .starting).cab.activeOrders, o.slot = .s0 → ∀ x ∈ o.steps, x.index = 1 → x.waitStart = none) ∧
    seated.cab.pool.grace = none := by decide +kernel

/-- A step in CLAIMING with its claim kept, one in POWERING of D3, and one in motion of D4. -/
def claims : Step := { step1 .move 340 .claiming with waitStart := some 0, blocker := some (.dock .d2), holds := true }
def powers : Step := { step1 .move 340 .powering with index := 2, dock := .d3, holds := true }
def runs : Step := { step1 .move 340 .running with index := 3, dock := .d4 }

/-- An order of some steps, D1 waiting with it, with cells of D1 and D3 and D3's request. -/
def manned (o : Order) : Cabin :=
  let c := (ordered o { seat with attention := .wait 1, lamp := .blinkFast }).cab
  { c with
    map := (c.map.install (.dock .d1) (frontSet .left 250)).install (.dock .d3) (frontSet .right 250)
    arb := { c.arb with requests := c.arb.requests.set .d3 (some ⟨⟨1, 2⟩, 0, 30, 15000⟩) }, jog := some ⟨1, .d1⟩ }

def ofSteps (l : List Step) : Order := { order1 claims with steps := l }

/-- The order's state and those of its steps, whether it is active, and D1's attention and lamp. -/
def ending (c : Cabin) : Option (OrderState × List StepState) × Bool × Attention × Lamp :=
  ((c.pool.recs.get .s0).map fun o => (o.state, o.steps.map (·.state)), c.pool.active.contains .s0, (c.dock .d1).attention, (c.dock .d1).lamp)

theorem manned_pool (o : Order) : (manned o).pool = (ordered o seat).cab.pool := rfl


/-- R95: the waiting step of an order fails; the order ends with the other waiting step SKIPPED, or runs on with a step in motion. Both
claims let go, D3's request is taken back. -/
theorem witness_failures :
    let l := [claims, powers, runs]
    let t := (manned (ofSteps l)).failWaiting (ofSteps l) claims .blockedDock
    ending t = (some (.active, [.failed, .skipped, .running]), true, .wait 1, .blinkFast) ∧
    (t.map.heldBy (.dock .d3)).isEmpty = true ∧ t.map.heldBy (.dock .d1) = seat.footprint ∧ t.arb.requests.get .d3 = none ∧
    ending ((manned (ofSteps [claims, powers])).failWaiting (ofSteps [claims, powers]) claims .blockedDock) =
      (some (.failed, [.failed, .skipped]), false, .none, .off) := by decide +kernel

/-- The pool, the order and its steps there. -/
theorem witness_failing_order :
    let o := ofSteps [claims, powers, runs]
    (manned o).pool.Named ∧ (manned o).orderOf? 1 = some o ∧ (o.steps.map (·.index)).Nodup := by
  refine ⟨?_, by decide +kernel, by decide⟩
  rw [manned_pool]
  exact named_of (by decide +kernel)

/-- R96: an order whose step is DONE ends in each final state, the first row that applies; one with a step in CLAIMING goes on. -/
theorem witness_order_ends :
    let o := ofSteps [{ claims with state := .done, holds := false, waitStart := none, blocker := none }]
    (([{ o with firstFailure := some ⟨.d1, .slide, .noPower, false⟩, cancelTaken := true }, { o with cancelTaken := true, superseded := [.d1] },
      { o with superseded := [.d1] }, { o with superseded := [.d2] }].map fun o =>
        let t := (manned o).closeOrder .s0
        (((ending t).1.map (·.1), (ending t).2), t.pool.free.getLast?, t.jog)) =
      [.failed, .cancelled, .superseded, .done].map fun st => ((some st, false, .none, .off), some .s0, none)) ∧
    (manned (ofSteps [claims])).closeOrder .s0 = manned (ofSteps [claims]) :=
  ⟨by decide +kernel, by decide +kernel⟩

/-- R96 by what ends an order: a cancel, a supersede of D1, a start check of a step at its target, the end of its jog, of its move and of
its ramp-down. R99: an order that had failed loses its waiting steps at the grace expiry. -/
theorem witness_what_ends_orders :
    let done (c : Cabin) := ((ending c).1, (ending c).2.1)
    let o := ofSteps [claims]
    let x : Step := step1 .move 600 .pending
    let lost : Order := { ofSteps [{ claims with state := .failed }, powers] with firstFailure := some ⟨.d1, .slide, .noPower, false⟩ }
    done ((manned o).cancelOrder .s0) = (some (.cancelled, [.skipped]), false) ∧
    done ((manned o).supersedeOn .d1 .s0) = (some (.superseded, [.skipped]), false) ∧
    done ((manned (ofSteps [x])).startChecks (ofSteps [x]) x) = (some (.done, [.done]), false) ∧
    done ((manned o).endJog) = (some (.done, [.skipped]), false) ∧ (manned o).orderOf? 1 = some o ∧
    done ((drivenBy .move 340 .running none 500).cab.finishMove .d1) = (some (.done, [.done]), false) ∧
    done ((drivenBy .move 340 .stopping (some .cancel) 500).cab.endStopping .d1) = (some (.done, [.skipped]), false) ∧
    done ((manned lost).graceOrder lost) = (some (.failed, [.failed, .skipped]), false) :=
  ⟨by decide +kernel, by decide +kernel, by decide +kernel, by decide +kernel, by decide +kernel, by decide +kernel,
    by decide +kernel, by decide +kernel⟩

/-- A stall of a homing move, of a plain move in RUNNING with a count covered, in REVERSING, and of extreme moves at the bands of the
error: 18 of 1200 counts past the end is within a 64th, 19 and 75 are corrections, 76 is a fault. -/
theorem witness_StallsEndTheMotion :
    (∀ p ∈ [(StepKind.homing, 0, StepState.running), (.move, 340, .running), (.move, 340, .reversing), (.move, 0, .running)],
      ((drivenBy p.1 p.2.1 p.2.2 none 599).cab.driven? .d1).any (fun q => q.2.stall = some 150 && 0 < q.2.progress q.1 &&
        0 < q.2.watch.reverse && (drivenBy p.1 p.2.1 p.2.2 none 599).cab.axis? .d1 q.1.kind = some q.1 &&
        (drivenBy p.1 p.2.1 p.2.2 none 599).cab.step? q.2.step = some (order1 (step1 p.1 p.2.1 p.2.2), step1 p.1 p.2.1 p.2.2)) =
          true) ∧
    ([18, 19, 75, 76].map fun n =>
      (((drivenBy .move 0 .running none 0).cab.modAxis .d1 .slide fun a => { a with overrun := n }).driven? .d1).map fun p =>
        let e := (p.1.tracked - p.2.target).natAbs
        (e, decide (p.1.travel < e * 64), decide (p.1.travel < e * 16))) =
      [some (18, false, false), some (19, true, false), some (75, true, false), some (76, true, true)] ∧
    (drivenBy .move 340 .running none 599).cab.agenda = [] ∧ (drivenBy .move 340 .running none 599).port.sleepHeld = false := by
  decide +kernel

/-- The end stop of a move to 0 that ran 19 counts past it is a correction, and 76 counts past it a fault (R118). -/
theorem test_end_stop_bands :
    ([19, 76].map fun n =>
      let s := drivenBy .move 0 .running none 0
      leaves (.stallTimerExpiry .d1) { s with cab := s.cab.modAxis .d1 .slide fun a => { a with overrun := n } } (fun t => ((t.cab.axis? .d1 .slide).map (·.ref), t.cab.notices.find? fun m =>
        m.subject = .reference .d1 0))) =
      [some (some .referenced, some ⟨.reference .d1 0, some (.corrected 19)⟩),
        some (some .referenceFault, some ⟨.reference .d1 0, some (.fault 76)⟩)] := by decide +kernel

/-- D1's SLIDE in the cruise of a move to 340, its watch judging, at counts of the two criteria; and braked for a back-off that ends 3
counts away. -/
def judged (st : StepState) (current speed : Nat) : Cabin :=
  (drivenBy .move 340 st none 480).cab.modMove .d1 fun m => { m with watch := { m.watch with
    judging := true, currentCount := current, speedCount := speed, previous := some (0, 200), filtered := some 2000
    reverseEnd := some 483 } }

/-- A status frame with every count of D1 where it stands, and a motor current. -/
def spinning (current : Nat) : StatusFrame := ⟨[0, 0, 0, 0], current, false, ⟨true, true⟩, [0, 0, 0]⟩

/-- How the step of order 1 failed. -/
def failureOf (c : Cabin) : Option (Reason × Bool) := (c.pool.recs.get .s0).bind fun o => (o.steps[0]?).bind (·.failure)

/-- A judged frame: a motor current and a change of the count, 100 ms after the frame before. -/
def judgedFrame (c : Cabin) (current : Nat) (change : Int) : Cabin :=
  Cabin.runTask (.judge .d1 ⟨1, 1⟩ (spinning current) false (stepOf c = some .reversing) change)
    (({ c with now := 100 } : Cabin).watchFrame .d1 current)

/-- A current of 60000 mA over a baseline of 1400 and no advance in 100 ms count; the third in a row is an obstruction; a move that ends
teaches its baseline. -/
theorem witness_obstructions :
    let counts (c : Cabin) := (c.driven? .d1).map fun p => (p.2.watch.currentCount, p.2.watch.speedCount)
    counts (judgedFrame (judged .running 0 0) 60000 0) = some (1, 1) ∧ counts (judgedFrame (judged .running 1 1) 0 (-20)) = some (0, 0) ∧
    stepOf (judgedFrame (judged .running 2 0) 60000 0) = some .reversing ∧
    stepOf (judgedFrame (judged .running 0 2) 0 0) = some .reversing ∧
    (judged .running 0 0).axis? .d1 .slide = ((judged .running 0 0).driven? .d1).map (·.1) ∧
    ((slide.learn { move1 .move 340 none with watch := { (move1 .move 340 none).watch with sums := [(3000, 2), (0, 0), (0, 0), (0, 0)] } }).baselines
      = [1412, 1400, 1400, 1400]) := by decide +kernel

/-- The back-off ends 2 counts short of its end, whatever the frame's current; 3 counts short of it a frame is judged, or the back-off goes on. -/
theorem witness_back_off_ends :
    ([483, 482].map fun stop => failureOf (judgedFrame ((judged .reversing 2 2).modMove .d1 fun m =>
      { m with watch := { m.watch with reverseEnd := some stop } }) 60000 0)) =
        [some (.obstructed, true), some (.obstructed, false)] ∧
    stepOf (judgedFrame (judged .reversing 0 0) 0 3) = some .reversing := by decide +kernel

/-- A RUNNING move within 3 and 2 counts of its target; overruns of 75 and 76 of 1200 counts; a homing run of 1500 and 1501 counts; a driver
fault in each state of motion, and fault flags on a brake command. What ends a move is run once for each cause. -/
theorem witness_frames_that_end_moves :
    let at_ (k : StepKind) (target count : Nat) (f : Axis → Axis) (n : Nat) : Cabin :=
      (drivenBy k target .running none count).cab.modAxis .d1 .slide fun a =>
        { f a with move := a.move.map fun m => { m with runLength := n } }
    let taken (c : Cabin) := stepOf (c.movingFrame .d1 (spinning 0) 0)
    let struck (st : StepState) (cmd : MotorCmd) : Cabin :=
      (drivenBy .move 340 st none 500).cab.motionFrame .d1 cmd { spinning 0 with counts := [600, 0, 0, 0], faults := true }
    let drives (c : Cabin) (st : StepState) (f : Axis → Move → Bool) : Bool :=
      (c.driven? .d1).any fun p => f p.1 p.2 && c.axis? .d1 p.1.kind = some p.1 && p.1.cond = .driven && p.1.nodeCount = 600 &&
        (c.step? p.2.step).any fun q => q.2.state = st
    ([343, 342].map fun n => drives (at_ .move 340 n id 0) .running fun a m => m.arrived a) = [false, true] ∧
    taken (at_ .move 340 342 id 0) = some .done ∧
    ([75, 76].map fun n => drives (at_ .move 1200 1200 (fun a => { a with overrun := n }) 0) .running fun a _ => a.overran) = [false, true] ∧
    taken (at_ .move 1200 1200 (fun a => { a with overrun := 76 }) 0) = some .failed ∧
    ([1500, 1501].map fun n => drives (at_ .homing 0 500 id n) .running fun a m => a.travel + a.travel / 4 < m.runLength) = [false, true] ∧
    taken (at_ .homing 0 500 id 1501) = some .failed ∧
    ([StepState.starting, .running, .stopping, .reversing].map fun st => drives (drivenBy .move 340 st none 500).cab st fun _ _ => true) =
      List.replicate 4 true ∧
    failureOf (struck .stopping (.drive 0 .decrease 200)) = some (.driveFault, false) ∧
    failureOf (struck .running .brake) = none := by
  decide +kernel

/-- D1's HEADREST as the fold step of a move in a state, its BACK channel and the occupancy as given; restricted as HEADREST is. -/
def folding (st : StepState) (why : Option StopCause) (back : ChanState) (o : Occupancy) : Cabin :=
  let m := { move1 .move 200 none with step := ⟨1, 1⟩, dir := .increase, start := 0, target := 200 }
  (ordered (order1 { step1 .move 200 st with axis := .headrest, fold := true, stopCause := why, holds := true })
    { seat with
      axes := seat.axes.map fun a => if a.kind = .headrest then { a with cond := .driven, move := some m, count := 100 } else a
      chans := [calm .cushion, { calm .back with state := back }]
      occupancy := o }).cab

/-- A fold-path touch and an occupancy in each state of motion, a touch for each stop cause, and no touch. -/
theorem witness_presence_stops :
    let drives (st : StepState) (why : Option StopCause) (back : ChanState) (o : Occupancy) : Bool :=
      let c := folding st why back o
      (c.driven? .d1).any fun p => p.1.kind = .headrest && c.axis? .d1 p.1.kind = some p.1 &&
        (c.step? p.2.step).any fun q => c.movingStep? .d1 = some q && q.2.state = st && q.2.stopCause = why &&
          q.2.foldChannel = .back && q.2.restricted (c.dock .d1) && (c.dock .d1).occupancy = o
    ([(StepState.starting, none), (.running, none), (.reversing, none), (.stopping, some StopCause.pause), (.stopping, some .release),
      (.stopping, some .cancel)].all fun p => drives p.1 p.2 .touch .none && drives p.1 p.2 .none .child) = true ∧
    drives .running none .prox .none = true := by decide +kernel

/-- A touch that a fold step is told of in RUNNING and at its grant, and an occupancy in RUNNING and in REVERSING (R143). -/
theorem test_presence_stops :
    ([Task.channelTold .d1 .back, .foldAtGrant .d1].map fun k => stepOf (Cabin.runTask k (folding .running none .touch .none))) =
      [some .reversing, some .reversing] ∧
    ([StepState.running, .reversing].map fun st => failureOf (Cabin.runTask (.occupancyTold .d1) (folding st none .none .child))) =
      [some (.occupied, false), some (.obstructed, true)] := by decide +kernel

/-- Moves in STOPPING for the stop causes, obstructed and stalled; a ramp-down of which 1 count, nothing and less is left. -/
theorem witness_stopping :
    let drives (k : StepKind) (target : Nat) (why : StopCause) : Bool :=
      let c := (drivenBy k target .stopping (some why) 500).cab
      (c.driven? .d1).any fun p => c.axis? .d1 p.1.kind = some p.1 && p.2.stall = some 150 &&
        (c.step? p.2.step).any fun q => q.2.state = .stopping && q.2.stopCause = some why
    let left (n : Int) : Cabin := (drivenBy .move 340 .stopping (some .cancel) 500).cab.modMove .d1 fun m =>
      { m with stop := some ⟨100, 200, 600 + n⟩ }
    ([StopCause.cancel, .supersede, .release, .pause].all (drives .move 340)) = true ∧ drives .move 0 .cancel = true ∧
    ([0, 1, -1].map fun n => ((left n).driven? .d1).map fun p => (p.2.stop.map fun q => p.2.stopLeft p.1 q)) =
      [some (some 0), some (some (-1)), some (some 1)] ∧
    ((judged .stopping 2 0).driven? .d1).isSome = true := by decide +kernel

/-- A stall in STOPPING takes the step on by its stop cause; a ramp-down of which nothing is left ends, and one of a count goes on (R128). -/
theorem test_stopping :
    let left (n : Int) : Cabin := ((drivenBy .move 340 .stopping (some .cancel) 500).cab.modMove .d1 fun m =>
      { m with stop := some ⟨100, 200, 600 + n⟩ }).movingFrame .d1 (spinning 0) 0
    stepOf (({ (drivenBy .move 340 .stopping (some .pause) 500).cab with now := 150 } : Cabin).stalled .d1) = some .claiming ∧
    ([0, -1].map fun n => stepOf (left n)) = [some .skipped, some .stopping] := by decide +kernel

/-- The grant of order 1's step on D1 withdrawn, in a state and with a stop cause. -/
def withdrawn (st : StepState) (why : Option StopCause) : Cabin :=
  ({ (drivenBy .move 340 st why 500).cab with
    arb := { emptyArbiter with grants := [⟨.d1, ⟨1, 1⟩, 0, 30⟩, ⟨.d2, ⟨9, 1⟩, 0, 40⟩], window := .rep (some 400) } }).withdraw
    ⟨.d1, ⟨1, 1⟩, 0, 30⟩

/-- The rows of R111: the step by its state and stop cause, a fresh request of 15 s where it is POWERING again, the failure of a back-off. -/
theorem witness_withdrawals :
    ([(StepState.starting, none), (.running, none), (.stopping, some StopCause.cancel), (.stopping, some .release),
      (.stopping, some .pause), (.reversing, none)].map fun p =>
        let c := withdrawn p.1 p.2
        (stepOf c, c.arb.requests.get .d1, failureOf c)) =
      [(some .powering, some ⟨⟨1, 1⟩, 0, 30, 15000⟩, none), (some .powering, some ⟨⟨1, 1⟩, 0, 30, 15000⟩, none), (some .skipped, none, none),
        (some .done, none, none), (some .claiming, none, none), (some .failed, none, some (.obstructed, true))] ∧
    (let c := withdrawn .running none;
      (c.arb.grants.map (·.dock), c.arb.window.get .d1, (c.dock .d1).command, (c.axis? .d1 .slide).map fun a => (a.count, a.cond)) =
        ([.d2], none, .brake, some (500, .settling))) ∧
    ((drivenBy .move 340 .running none 500).cab.step? ⟨1, 1⟩).isSome = true ∧ (drivenBy .move 340 .running none 500).cab.pool.Named :=
  ⟨by decide +kernel, by decide +kernel, by decide +kernel, named_of (by decide +kernel)⟩

/-- The grant of the worked profile, with a drift of -3 taken in: the move begins at 597, its first command at 200. One of 2 counts arrives
at once and is DONE; its motor command stands. -/
theorem witness_grants_begin_moves :
    let g (target : Nat) (drift : Int) : Cabin :=
      (sequenced (step1 .move target .powering) { slide with drift := drift } .none).grantTo .d1 ⟨⟨1, 1⟩, 0, 30, 0⟩
    let seen (c : Cabin) : Option (List Int) := (c.driven? .d1).map fun p => [p.1.count, p.1.drift, p.2.start, p.2.distance]
    [seen (g 340 0), seen (g 340 (-3)), seen (g 602 0)] = [some [600, 0, 600, 260], some [597, 0, 597, 257], some [600, 0, 600, 2]] ∧
    ([g 340 0, g 602 0, g 0 0].map fun c => ((c.dock .d1).command, c.agenda)) =
      [(.drive 0 .decrease 200, []), (.brake, [.arriveAtOnce .d1]), (.drive 0 .decrease 200, [])] ∧
    (let c := Cabin.runTask (.arriveAtOnce .d1) (g 602 0);
      stepOf c = some .done ∧ (c.axis? .d1 .slide).map (fun a => (a.count, a.cond)) = some (600, .settling) ∧
        c.arb.window.get .d1 = none) ∧
    (g 602 0).movingStep? .d1 = (g 602 0).step? ⟨1, 1⟩ ∧ (g 602 0).pool.Named := by
  refine ⟨by decide +kernel, by decide +kernel, by decide +kernel, by decide +kernel, named_of (by decide +kernel)⟩

/-- Frames of a step in STARTING: no change leaves it and its window, the first change makes it RUNNING; the run length takes what goes
toward the target, what a back-off has covered what goes against it. -/
theorem witness_first_change :
    let c (count : Nat) : Cabin :=
      let c := (drivenBy .move 340 .starting none count).cab
      { c with arb := { c.arb with window := c.arb.window.set .d1 (some 400) } }
    let back : Cabin := (ordered (order1 { step1 .move 340 .reversing with obstruction := some ⟨.stall, 480, 1, none, 1400, 2500, none, 40, 5⟩ })
      (moving (move1 .move 340 none) 480)).cab
    ([(600, 0), (598, -2)].map fun p =>
      let t := (c p.1).movingFrame .d1 (spinning 0) p.2
      (stepOf t, t.arb.window.get .d1)) = [(some .starting, some 400), (some .running, none)] ∧
    ([-7, 7].map fun (n : Int) => (((c 598).growRun .d1 n).driven? .d1).map fun p => p.2.runLength) = [some 7, some 0] ∧
    ([-7, 7].map fun (n : Int) => ((back.coverBack .d1 n).step? ⟨1, 1⟩).bind fun q => q.2.obstruction.map (·.covered)) =
      [some 5, some 12] := by decide +kernel

/-- The stall timer at frames of a current above the threshold of 4000 mA: it starts at no change, goes on, and stops at a change and at the
threshold; a step in STARTING of a plain move has none, of a homing move it has. The judged frame is the previous one of the next. -/
theorem witness_stall_timer :
    let f (s : State) (current : Nat) (change : Int) : Option Timer :=
      ((({ s.cab with now := 100 } : Cabin).movingFrame .d1 (spinning current) change).driven? .d1).map (·.2.stall)
    let s (k : StepKind) (target : Nat) (st : StepState) (stall : Timer) : State :=
      ordered (order1 (step1 k target st)) (moving (move1 k target stall) 480)
    [f (s .move 340 .running none) 4001 0, f (s .move 340 .running (some 150)) 4001 0, f (s .move 340 .running (some 150)) 4001 (-1),
      f (s .move 340 .running (some 150)) 4000 0, f (s .move 340 .starting none) 4001 0, f (s .homing 0 .starting none) 4001 0] =
      [some (some 250), some (some 150), some none, some none, some none, some (some 250)] ∧
    ((judgedFrame (judged .running 0 0) 0 (-20)).driven? .d1).map (fun p => p.2.watch.previous.map (·.1)) = some (some 100) ∧
    ((judgedFrame (judged .running 2 0) 60000 0).driven? .d1).map (fun p => (p.2.watch.reverseSpeed, p.2.watch.reverseFirst)) =
      some (200, true) := by decide +kernel

/-- Running timers of an axis, of a channel in FAULT and of an electrode in FAULT; a touch in HELD and one in EXPIRED. -/
def suppressed : State :=
  { withDock { seat with
      axes := [{ slide with suppression := some 30000 }]
      chans := [{ calm .cushion with state := .fault, suppression := some 20000 }] } with
    pad := ⟨true, 0, List.replicate 4 { calm .strip with state := .fault, suppression := some 20000 },
      some ⟨.held, 0, 10, 60, 50, 700⟩⟩ }

theorem witness_SuppressionsAndTouchesExpire :
    ((suppressed.cab.axis? .d1 .slide).bind (·.suppression)) = some 30000 ∧
    (((suppressed.cab.dock .d1).chan? .cushion).bind (·.suppression)) = some 20000 ∧
    ((suppressed.pad.electrodes[3]?).bind (·.suppression)) = some 20000 ∧ suppressed.cab.activeOrders = [] ∧
    suppressed.pad.touch.any (fun t => t.phase = .held) = true ∧ suppressed.cab.agenda = [] ∧
    ((seated.cab.axis? .d1 .slide).bind (·.suppression)) = none ∧ State.reset.pad.touch = none := by decide +kernel

/-- A HOMING step waits with REFERENCE_WAIT for a fault at 0 ms; at the expiry at 30000 ms its attempt takes it to POWERING with its sweep
reserved. A fault at 1 ms still holds it back. -/
theorem witness_homing_goes_on :
    let s := ordered (order1 { step1 .homing 0 .claiming with blocker := some .referenceWait })
      { seat with axes := [{ slide with ref := .referenceFault, faultTime := some 0, suppression := some 30000 }] }
    let late := s.modCab fun c => c.modAxis .d1 .slide fun a => { a with faultTime := some 1 }
    (([s, late].map fun s => leaves (.referenceSuppressionExpiry .d1 .slide) s fun t =>
        (stepOf t.cab, t.cab.now, (t.cab.map.reserved.get .d1).isSome)) =
      [some (some .powering, 30000, true), some (some .claiming, 30000, false)]) ∧ s.cab.agenda = [] ∧ s.port.sleepHeld = false := by
  decide +kernel

/-- Two settings records due; a dirty layout alone; a settings write and a layout write that run. -/
theorem witness_StoreWritesBeginAndComplete :
    (let table : List SettingsId := [.identifiers, .geometry, .dockTable, .budget, .limits, .overrides, .bindings]
      ∀ j ∈ [SettingsId.bindings, .geometry], table.idxOf .geometry ≤ table.idxOf j) ∧
    (leaves .settingsWriteBegin { State.reset with store := { State.reset.store with due := [.bindings, .geometry] } } fun t => t.store.due) =
      some [.bindings] ∧
    State.reset.store.writing = none ∧ State.reset.store.due = [] ∧
    ({ full.cab.layouts with dirty := [7, 24] } : LayoutTable).dirty = 7 :: [24] ∧
    ({ State.reset.store with writing := some (.settings (.budget 240)) } : Store).writing = some (.settings (.budget 240)) ∧
    ({ State.reset.store with writing := some (.layout 24 none) } : Store).writing = some (.layout 24 none) := by decide +kernel

end Sys2Proof.Tests
end

section
/-! PROOF. The operations of the Clearance Map (R26 to R30) cell by cell, and the station of a position (R35). -/

namespace Sys2Proof.Machine

open Sys2Proof

/-! ### Holder order (section 2.1) -/

theorem Holder.mem_all (h : Holder) : h ∈ Holder.all := by
  rcases h with (_ | _ | _ | _ | _) | _ | _ <;> decide

theorem Holder.all_rising : Holder.all.Pairwise fun g k => g.num < k.num := by decide

/-- A search in holder order ends at the lowest-numbered holder that satisfies `p`. -/
theorem Holder.find_all_of_least {p : Holder → Bool} {g : Holder} (hg : p g = true) (least : ∀ k, p k = true → g.num ≤ k.num) :
    Holder.all.find? p = some g := by
  cases hf : Holder.all.find? p with
  | none => exact absurd hg (List.find?_eq_none.1 hf g g.mem_all)
  | some k =>
    obtain ⟨hk, before, behind, hall, hbefore⟩ := List.find?_eq_some_iff_append.1 hf
    have rising := Holder.all_rising
    rw [hall, List.pairwise_append, List.pairwise_cons] at rising
    have place : g ∈ before ++ k :: behind := hall ▸ g.mem_all
    rw [List.mem_append, List.mem_cons] at place
    obtain hin | rfl | hin := place
    · simpa [hg] using hbefore g hin
    · rfl
    · exact absurd (least k hk) (Nat.not_le.2 (rising.2.1.1 g hin))

theorem Holder.find_all_eq_none {p : Holder → Bool} : Holder.all.find? p = none ↔ ∀ g, p g = false := by
  simp [List.find?_eq_none, Holder.mem_all]

@[simp] theorem PerHolder.set_get_self {α : Type} (p : PerHolder α) (h : Holder) : p.set h (p.get h) = p := by
  cases h with
  | dock d => exact congrArg (fun t => { p with docks := t }) (PerDock.set_get_self p.docks d)
  | frontL => rfl
  | frontR => rfl

namespace CellMap

/-! ### What a sound map lists (R25) -/

theorem Sound.not_listed_of_free {m : CellMap} (hm : m.Sound) {x : Cell} (hx : m.holderOf x = none) (g : Holder) :
    (m.listed.get g).mem x = false := by
  refine Bool.eq_false_iff.2 fun hl => ?_
  obtain ⟨k, hk, -⟩ := hm.listed g x hl
  simp [hx] at hk

theorem Sound.not_listed_of_held {m : CellMap} (hm : m.Sound) {x : Cell} {h : Holder} (hx : m.holderOf x = some h) :
    (m.listed.get h).mem x = false := by
  refine Bool.eq_false_iff.2 fun hl => ?_
  obtain ⟨k, hk, hne⟩ := hm.listed h x hl
  exact hne (Option.some.inj (hk.symm.trans hx))

/-- Each cell at its place: a map whose cells all keep their holders is the same map. -/
theorem Sound.rehold_eq_self {m : CellMap} (hm : m.Sound) {f : Cell → Option Holder → Option Holder} (hf : ∀ x k, f x k = k) :
    m.rehold f = m := by
  have cells : zipCells f Cell.all m.cells = m.cells := by
    refine List.ext_getElem? fun i => ?_
    rw [zipCells_getElem?]
    obtain hi | hi := Nat.lt_or_ge i 288
    · simp [hi, hf, hm.size, Cell.all_length]
    · simp [hi, hm.size, Cell.all_length]
  unfold rehold
  rw [cells]

/-! ### Install (R26) -/

theorem holderOf_install (m : CellMap) (h : Holder) (S : CellSet) (x : Cell) :
    (m.install h S).holderOf x = if m.holderOf x = none ∧ S.mem x = true then some h else m.holderOf x := by
  have e : (m.install h S).holderOf x = _ := holderOf_rehold m _ x
  simpa using e

theorem mem_listed_install_self (m : CellMap) (h : Holder) (S : CellSet) (x : Cell) :
    ((m.install h S).listed.get h).mem x =
      ((m.listed.get h).mem x || S.mem x && ((m.holderOf x).isSome && m.holderOf x != some h)) := by
  simp [install]

theorem listed_install_ne (m : CellMap) {h g : Holder} (S : CellSet) (hg : g ≠ h) :
    (m.install h S).listed.get g = m.listed.get g := PerHolder.get_set_ne _ _ hg

@[simp] theorem install_reserved (m : CellMap) (h : Holder) (S : CellSet) : (m.install h S).reserved = m.reserved := rfl

theorem Sound.install_empty {m : CellMap} (hm : m.Sound) (h : Holder) : m.install h .empty = m := by
  have cells : (m.rehold fun c x => if x.isNone && CellSet.empty.mem c then some h else x) = m :=
    hm.rehold_eq_self fun x k => by simp
  have list : (m.listed.get h).union (CellSet.empty.inter (m.heldByOthers h)) = m.listed.get h :=
    CellSet.ext_mem fun x => by simp
  unfold install
  rw [cells, list, PerHolder.set_get_self]

/-! ### Claim (R27) -/

/-- The cell keeps the dock from claiming: another holder holds it and the dock does not list it (R27). -/
def Stops (m : CellMap) (d : Dock) (S : CellSet) (x : Cell) (g : Holder) : Prop :=
  S.mem x = true ∧ m.holderOf x = some g ∧ g ≠ .dock d ∧ (m.listed.get (.dock d)).mem x = false

/-- The search for the blocker finds the holders of the cells that stop the claim. -/
theorem blocks_iff (m : CellMap) (d : Dock) (S : CellSet) (g : Holder) :
    (!((m.blocking d S).inter (m.heldBy g)).isEmpty) = true ↔ ∃ x, m.Stops d S x g := by
  rw [Bool.not_eq_true', ← Bool.not_eq_true, CellSet.isEmpty_iff, not_forall]
  refine exists_congr fun x => ?_
  by_cases hx : m.holderOf x = some g <;> simp [Stops, blocking, hx, and_assoc]

theorem blocker_eq_none {m : CellMap} {d : Dock} {S : CellSet} : m.blocker d S = none ↔ ∀ x g, ¬ m.Stops d S x g := by
  unfold blocker
  simp only [Holder.find_all_eq_none, ← Bool.not_eq_true, blocks_iff, not_exists]
  exact forall_comm

theorem blocker_of_least {m : CellMap} {d : Dock} {S : CellSet} {x : Cell} {g : Holder} (hx : m.Stops d S x g)
    (least : ∀ y k, m.Stops d S y k → g.num ≤ k.num) : m.blocker d S = some g := by
  refine Holder.find_all_of_least ((blocks_iff m d S g).2 ⟨x, hx⟩) fun k hk => ?_
  obtain ⟨y, hy⟩ := (blocks_iff m d S k).1 hk
  exact least y k hy

theorem claim_of_blocker {m : CellMap} {d : Dock} {S : CellSet} {g : Holder} (h : m.blocker d S = some g) :
    m.claim d S = .error g := by
  unfold claim
  rw [h]

theorem claim_of_no_blocker {m : CellMap} {d : Dock} {S : CellSet} (h : m.blocker d S = none) :
    ∃ m', m.claim d S = .ok m' ∧
      (∀ x, m'.holderOf x = if S.mem x && (m.holderOf x).isNone then some (.dock d) else m.holderOf x) ∧
      m'.listed = m.listed ∧ m'.reserved = m.reserved.set d (some S) := by
  refine ⟨{ m.rehold (fun c x => if x.isNone && S.mem c then some (.dock d) else x) with
    reserved := m.reserved.set d (some S) }, ?_, fun x => ?_, rfl, rfl⟩
  · unfold claim
    rw [h]
  · rw [Bool.and_comm]
    exact holderOf_rehold m _ x

/-! ### Trim (R28) and hand-off (R30) -/

theorem heir_ne_self (m : CellMap) (h : Holder) (x : Cell) : m.heir h x ≠ some h := fun e => by
  simpa using List.find?_some e

theorem heir_of_least {m : CellMap} {h g : Holder} {x : Cell} (hg : g ≠ h) (hl : (m.listed.get g).mem x = true)
    (least : ∀ k, (m.listed.get k).mem x = true → g.num ≤ k.num) : m.heir h x = some g :=
  Holder.find_all_of_least (by simp [hg, hl]) fun k hk => least k (by simp_all)

theorem heir_of_unlisted {m : CellMap} {h : Holder} {x : Cell} (hl : ∀ g, (m.listed.get g).mem x = false) :
    m.heir h x = none := Holder.find_all_eq_none.2 fun g => by simp [hl g]

theorem holderOf_trim (m : CellMap) (h : Holder) (K : CellSet) (x : Cell) :
    (m.trim h K).holderOf x = if m.holderOf x = some h ∧ K.mem x = false then m.heir h x else m.holderOf x := by
  have e : (m.trim h K).holderOf x = _ := holderOf_rehold m _ x
  simpa using e

@[simp] theorem mem_listed_trim_self (m : CellMap) (h : Holder) (K : CellSet) (x : Cell) :
    ((m.trim h K).listed.get h).mem x = ((m.listed.get h).mem x && K.mem x) := by
  simp [trim]

theorem mem_listed_trim_ne (m : CellMap) {h g : Holder} (K : CellSet) (hg : g ≠ h) (x : Cell) :
    ((m.trim h K).listed.get g).mem x =
      ((m.listed.get g).mem x && !(m.holderOf x == some h && !K.mem x && m.heir h x == some g)) := by
  simp [trim, dropped, hg]

@[simp] theorem trim_reserved (m : CellMap) (h : Holder) (K : CellSet) : (m.trim h K).reserved = m.reserved := rfl

theorem holderOf_trim_ne (m : CellMap) (h : Holder) {K : CellSet} {x : Cell} (hx : K.mem x = false) :
    (m.trim h K).holderOf x ≠ some h := by
  rw [holderOf_trim]
  split
  · exact m.heir_ne_self h x
  · next hn => exact fun e => hn ⟨e, hx⟩

/-- What a trim of `h` to `K` makes of a map (R28, R30): a dropped cell goes to its lowest-numbered lister or to nobody, every other
cell stands, and the holder lists nothing outside `K`. -/
structure HandsOn (m : CellMap) (h : Holder) (K : CellSet) (m' : CellMap) : Prop where
  given : ∀ x, m.holderOf x = some h → K.mem x = false →
    ∀ g, (m.listed.get g).mem x = true → (∀ k, (m.listed.get k).mem x = true → g.num ≤ k.num) →
      m'.holderOf x = some g ∧ (m'.listed.get g).mem x = false ∧
        ∀ k, k ≠ g → (m'.listed.get k).mem x = (m.listed.get k).mem x
  freed : ∀ x, m.holderOf x = some h → K.mem x = false → (∀ g, (m.listed.get g).mem x = false) → m'.holderOf x = none
  stands : ∀ x, m.holderOf x ≠ some h ∨ K.mem x = true → m'.holderOf x = m.holderOf x ∧
    ∀ k, k ≠ h → (m'.listed.get k).mem x = (m.listed.get k).mem x
  keeps : ∀ x, (m'.listed.get h).mem x = ((m.listed.get h).mem x && K.mem x)

theorem Sound.trim_handsOn {m : CellMap} (hm : m.Sound) (h : Holder) (K : CellSet) : m.HandsOn h K (m.trim h K) where
  given x hx hK g hg least := by
    have unlisted := hm.not_listed_of_held hx
    have hne : g ≠ h := fun e => by simp [e, unlisted] at hg
    have heir := heir_of_least hne hg least
    refine ⟨?_, ?_, fun k hk => ?_⟩
    · rw [holderOf_trim, if_pos ⟨hx, hK⟩, heir]
    · simp [mem_listed_trim_ne m K hne, hx, hK, heir]
    · by_cases hkh : k = h
      · simp [hkh, unlisted]
      · simp [mem_listed_trim_ne m K hkh, heir, hk.symm]
  freed x hx hK hl := by rw [holderOf_trim, if_pos ⟨hx, hK⟩, heir_of_unlisted hl]
  stands x hx := by
    have kept : ¬ (m.holderOf x = some h ∧ K.mem x = false) := by
      rintro ⟨hh, hK⟩
      simp [hh, hK] at hx
    refine ⟨by rw [holderOf_trim, if_neg kept], fun k hk => ?_⟩
    rw [mem_listed_trim_ne m K hk]
    obtain hx | hx := hx <;> simp [hx]
  keeps := m.mem_listed_trim_self h K

/-! ### Release (R29) -/

/-- A release hands on as a trim to nothing does: its reservation record is no part of what is held or listed. -/
theorem Sound.release_handsOn {m : CellMap} (hm : m.Sound) (d : Dock) : m.HandsOn (.dock d) .empty (m.release d) :=
  have t := Sound.trim_handsOn (m := m.unreserve d) ⟨hm.size, hm.listed⟩ (.dock d) .empty
  ⟨t.given, t.freed, t.stands, t.keeps⟩

end CellMap

end Sys2Proof.Machine

namespace Sys2Proof

open Machine

/-! ### Stations (R35) -/

/-- The stations reached at a permille are those before the first one whose boundary lies above it. -/
theorem boundary_le_iff_lt_reached {t : List Station} (rising : (t.map (·.boundary)).Pairwise (· < ·)) {n i : Nat} {x : Station}
    (hx : t[i]? = some x) : x.boundary ≤ n ↔ i < (t.takeWhile fun st => st.boundary ≤ n).length := by
  induction t generalizing i with
  | nil => simp at hx
  | cons a t ih =>
    rw [List.map_cons, List.pairwise_cons] at rising
    obtain ⟨above, rising⟩ := rising
    have first : a.boundary ≤ x.boundary := by
      cases i with
      | zero => simp_all
      | succ i => exact (above _ (List.mem_map_of_mem (List.mem_of_getElem? hx))).le
    by_cases ha : a.boundary ≤ n
    · cases i with
      | zero => simp_all
      | succ i => simpa [ha] using ih rising hx
    · simp only [List.takeWhile_cons, ha, decide_false, Bool.false_eq_true, if_false, List.length_nil, Nat.not_lt_zero, iff_false]
      omega

/-- Station 0 is reached at every permille, its boundary being 0 (R31). -/
theorem StationTableFormed.reached_pos {t : List Station} (ht : StationTableFormed t) (n : Nat) :
    0 < (t.takeWhile fun st => st.boundary ≤ n).length := by
  cases t with
  | nil => simpa using ht.count.1
  | cons a t =>
    have h0 : a.boundary = 0 := by simpa using ht.first
    exact (boundary_le_iff_lt_reached ht.rising rfl).1 (by omega)

theorem StationTableFormed.stationOf_reached {t : List Station} (ht : StationTableFormed t) (T p : Nat) :
    ∃ x, t[stationOf t T p]? = some x ∧ x.boundary ≤ permille p T := by
  have pos := ht.reached_pos (permille p T)
  have hlt : stationOf t T p < (t.takeWhile fun st => st.boundary ≤ permille p T).length := Nat.sub_lt pos Nat.one_pos
  have hx := List.getElem?_eq_getElem (hlt.trans_le (List.takeWhile_sublist _).length_le)
  exact ⟨_, hx, (boundary_le_iff_lt_reached ht.rising hx).2 hlt⟩

theorem StationTableFormed.lt_boundary_of_stationOf_lt {t : List Station} (ht : StationTableFormed t) {T p i : Nat} {x : Station}
    (hx : t[i]? = some x) (hi : stationOf t T p < i) : permille p T < x.boundary := by
  refine Nat.lt_of_not_le fun hle => ?_
  have reached := (boundary_le_iff_lt_reached ht.rising hx).1 hle
  unfold stationOf at hi
  omega

/-- The permille at the end of travel is 1000, above every boundary (R31, R35). -/
theorem StationTableFormed.stationOf_end {t : List Station} (ht : StationTableFormed t) {T : Nat} (hT : 0 < T) :
    stationOf t T T = t.length - 1 := by
  have full : permille T T = 1000 := Nat.mul_div_cancel_left 1000 hT
  have all : (t.takeWhile fun st => st.boundary ≤ permille T T) = t :=
    List.takeWhile_eq_self_iff.2 fun x hx => by
      have := ht.last x hx
      rw [full, decide_eq_true_eq]
      omega
  unfold stationOf
  rw [all]

end Sys2Proof

/-! ### The statements -/

namespace Sys2Proof.Proofs

open Sys2Proof.Machine

/-- Settles O16, from the holder and the list of each cell after an install. -/
theorem installPlacesEveryCell : Obligations.InstallPlacesEveryCell := by
  intro m h S hm
  refine ⟨fun x hS hx => ?free, fun x hS hx => ?own, fun x hl => ?listed, fun x g hS hx hg => ?other, fun x hS => ?outside,
    fun g hg => m.listed_install_ne S hg, m.install_reserved h S, fun hS => hS ▸ hm.install_empty h⟩
  case free => simp [m.holderOf_install, m.mem_listed_install_self, hS, hx, hm.not_listed_of_free hx h]
  case own => simp [m.holderOf_install, m.mem_listed_install_self, hx, hm.not_listed_of_held hx]
  case listed =>
    obtain ⟨g, hx, -⟩ := hm.listed h x hl
    simp [m.holderOf_install, m.mem_listed_install_self, hx, hl]
  case other => simp [m.holderOf_install, m.mem_listed_install_self, hS, hx, hg]
  case outside => simp [m.holderOf_install, m.mem_listed_install_self, hS]

/-- Settles O17: with no cell that stops it a claim has no blocker, and else its blocker is the lowest-numbered holder of one. -/
theorem claimTakesAllOrNothing : Obligations.ClaimTakesAllOrNothing := by
  intro m d S _
  refine ⟨fun none_stops => ?_, fun x g hx least => ?_, fun hS => ?_⟩
  · exact CellMap.claim_of_no_blocker (CellMap.blocker_eq_none.2 none_stops)
  · exact CellMap.claim_of_blocker (CellMap.blocker_of_least hx least)
  · have unblocked : m.blocker d S = none := CellMap.blocker_eq_none.2 fun x g hx => by simpa [hS] using hx.1
    obtain ⟨m', hm', -⟩ := CellMap.claim_of_no_blocker unblocked
    exact ⟨m', hm'⟩

/-- Settles O18, from what a trim hands on and the cells an install places. -/
theorem trimAndReleaseHandOn : Obligations.TrimAndReleaseHandOn := by
  intro m hm hands
  have parts {h : Holder} {K : CellSet} {m' : CellMap} (t : m.HandsOn h K m') : hands h K m' :=
    ⟨fun x hx hK => ⟨t.given x hx hK, t.freed x hx hK⟩, t.stands, t.keeps⟩
  refine ⟨fun h K => ⟨parts (hm.trim_handsOn h K), m.trim_reserved h K⟩, fun h S x => ?_, fun d => ?_⟩
  · refine ⟨fun hS hx => ?held, fun g hS hx hg => ?listed, fun hS => ⟨CellMap.holderOf_trim_ne _ h hS, ?outside⟩⟩
    case held =>
      have placed : (m.install h S).holderOf x = some h := by
        obtain hx | hx := hx <;> simp [m.holderOf_install, hS, hx]
      simp [CellMap.holderOf_trim, hS, placed]
    case listed => simp [CellMap.mem_listed_install_self, hS, hx, hg]
    case outside => simp [hS]
  · have t := hm.release_handsOn d
    exact ⟨parts t, rfl, fun x => ⟨CellMap.holderOf_trim_ne _ _ (CellSet.mem_empty x), by simp [t.keeps]⟩⟩

/-- Settles O19, the stations of a well-formed table being reached in the order of their boundaries. -/
theorem stationIsTheLargestReached : Obligations.StationIsTheLargestReached := by
  intro t T p ok hT
  have ht := tableOk_iff.1 ok
  exact ⟨ht.stationOf_reached T p, fun _ _ hx hi => ht.lt_boundary_of_stationOf_lt hx hi, ht.stationOf_end hT⟩

end Sys2Proof.Proofs
end

section
/-! PROOF. A request that is taken, from its header to its answer (R170), and RETIRE_LAYOUT (R60). -/

namespace Sys2Proof.Machine

/-! ### What stays outside the cabin -/

namespace State

theorem SameBeside.trans {s t u : State} (h : s.SameBeside t) (k : t.SameBeside u) : s.SameBeside u where
  pad := k.pad.trans h.pad
  latchA := k.latchA.trans h.latchA
  latchB := k.latchB.trans h.latchB
  intrusion := k.intrusion.trans h.intrusion
  pending := k.pending.trans h.pending
  round := by simp only [k.round, h.round, and_self]
  sent := k.sent.trans h.sent
  vehicle := by simp only [k.vehicle, h.vehicle, and_self]
  lost := k.lost.trans h.lost
  restarted := k.restarted.trans h.restarted
  resetting := k.resetting.trans h.resetting

theorem SameOutside.trans {s t u : State} (h : s.SameOutside t) (k : t.SameOutside u) : s.SameOutside u :=
  ⟨h.toSameBeside.trans k.toSameBeside, k.store.trans h.store⟩

theorem quietWires_sameOutside (s : State) : s.SameOutside s.quietWires := by repeat' constructor

theorem modCab_sameOutside (s : State) (f : Cabin → Cabin) : s.SameOutside (s.modCab f) := by repeat' constructor

theorem keepQuiet_sameOutside (s : State) : s.SameOutside s.keepQuiet := by repeat' constructor

theorem respond_sameOutside (s : State) (b : IdentBinding) (kind : Nat) (h : ReqHdr) (a : Answer) :
    s.SameOutside (s.respond b kind h a) := by repeat' constructor

theorem taken_sameOutside (s : State) (stays : Bool) : s.SameOutside (s.taken stays) := by
  unfold taken leaveDoze
  split
  · repeat' constructor
  · split <;> repeat' constructor

/-! ### The taking of a request (R170) -/

@[simp] theorem leaveDoze_cab (s : State) : s.leaveDoze.cab = s.cab := by
  unfold leaveDoze
  split <;> rfl

@[simp] theorem leaveDoze_queue (s : State) : s.leaveDoze.port.queue = s.port.queue := by
  unfold leaveDoze
  split <;> rfl

@[simp] theorem taken_cab (s : State) (stays : Bool) : (s.taken stays).cab = s.cab := by cases stays <;> simp [taken]

@[simp] theorem taken_queue (s : State) (stays : Bool) : (s.taken stays).port.queue = s.port.queue := by
  cases stays <;> simp [taken]

/-- With nothing to tell and SLEEP not held back, the end of a command is the quiet timer alone (R175). -/
theorem finish_of_quiet {s : State} (told : s.cab.agenda = []) (held : s.port.sleepHeld = false) : s.finish = s.keepQuiet := by
  have held' : s.keepQuiet.port.sleepHeld = false := held
  simp [finish, cascade_of_quiet s told, closing, held']

/-- A request that is taken is answered by the rule of its kind. -/
theorem Takes.request_eq {s : State} {h : ReqHdr} {b : IdentBinding} (takes : s.Takes h b) (kind : Nat)
    (rule : ReqClass → State → State × Answer) (stays : Bool) :
    s.request kind h rule stays =
      (rule b.cls (s.quietWires.taken stays)).1.finish.respond b kind h (rule b.cls (s.quietWires.taken stays)).2 := by
  obtain ⟨awake, known, room, running, long, profile, -⟩ := takes
  simp [request, receive, awake, known, Nat.not_le.2 room, running, long, Nat.not_lt.2 profile]

/-- A rule that changes the cabin alone and leaves nothing to tell: the cabin it makes, and all outside as it was. -/
theorem Takes.request_modCab {s : State} {h : ReqHdr} {b : IdentBinding} (takes : s.Takes h b) {kind : Nat}
    {rule : ReqClass → State → State × Answer} {stays : Bool} {f : Cabin → Cabin} {a : Answer}
    (rules : ∀ u : State, u.cab = s.cab → rule b.cls u = (u.modCab f, a)) (told : (f s.cab).agenda = []) :
    (s.request kind h rule stays).cab = f s.cab ∧ s.SameOutside (s.request kind h rule stays) ∧
      s.Answered (s.request kind h rule stays) b kind h a := by
  rw [takes.request_eq, rules _ (by simp), finish_of_quiet (by simpa using told) rfl]
  refine ⟨by simp, ?outside, ?answered⟩
  case outside =>
    exact ((((quietWires_sameOutside s).trans (taken_sameOutside _ _)).trans (modCab_sameOutside _ _)).trans
      (keepQuiet_sameOutside _)).trans (respond_sameOutside _ _ _ _ _)
  case answered =>
    have queue : (s.quietWires.taken stays).port.queue = s.port.queue := by simp
    have restarted : (s.quietWires.taken stays).port.restarted = s.port.restarted := (taken_sameOutside _ _).restarted
    simp only [Answered, respond, keepQuiet, modCab_port, queue, restarted]

/-- A rule that answers and does nothing more. -/
theorem Takes.request_onlyAnswers {s : State} {h : ReqHdr} {b : IdentBinding} (takes : s.Takes h b) {kind : Nat}
    {rule : ReqClass → State → State × Answer} {stays : Bool} {a : Answer}
    (rules : ∀ u : State, u.cab = s.cab → rule b.cls u = (u, a)) : s.OnlyAnswers (s.request kind h rule stays) b kind h a := by
  obtain ⟨cab, outside, answered⟩ := takes.request_modCab (kind := kind) (stays := stays) (f := id) rules takes.told
  exact ⟨cab, outside, answered⟩

end State

/-! ### The Layout Table (R50, R69) -/

theorem LayoutTable.find?_eq_none {t : LayoutTable} {n : Nat} : t.find? n = none ↔ ∀ l ∈ t.live, l.number ≠ n := by
  simp [LayoutTable.find?]

/-- The live numbers being distinct, a number finds its one record (R50). -/
theorem LayoutTable.Sound.find?_eq_some {t : LayoutTable} (ht : t.Sound) {n : Nat} {l : LayoutRec} :
    t.find? n = some l ↔ l ∈ t.live ∧ l.number = n := by
  refine ⟨fun h => ⟨List.mem_of_find?_eq_some h, by simpa using List.find?_some h⟩, fun ⟨hl, hn⟩ => ?_⟩
  cases hf : t.find? n with
  | none => exact absurd hn (LayoutTable.find?_eq_none.1 hf l hl)
  | some k =>
    have hk : k.number = n := by simpa using List.find?_some hf
    have once : (t.live.map (·.number)).Nodup := ht.rising.imp Nat.ne_of_lt
    exact congrArg some (List.inj_on_of_nodup_map once (List.mem_of_find?_eq_some hf) hl (hk.trans hn.symm))

theorem mem_joinDirty {l : List Nat} {n j : Nat} : j ∈ joinDirty l n ↔ j = n ∨ j ∈ l := by
  simp only [joinDirty, List.mem_append, List.mem_cons, List.mem_filter, decide_eq_true_eq]
  obtain h | rfl | h := Nat.lt_trichotomy j n
  · simp [h, h.ne, h.le]
  · simp
  · simp [h, h.ne', h.le]

namespace Cabin

/-- Notices of a list of subjects change the notices alone. -/
theorem foldl_notify {α : Type} (subject : α → Subject) (l : List α) (c : Cabin) :
    ∃ pending, l.foldl (fun c x => c.notify (subject x)) c = { c with notices := pending } := by
  induction l generalizing c with
  | nil => exact ⟨c.notices, rfl⟩
  | cons x l ih => exact ih (c.notify (subject x))

/-- The match recomputed is the table's match, and beside it only notices change (R65, R66). -/
theorem rematch_eq (c : Cabin) (also : Option Dock) :
    ∃ pending, c.rematch also =
      { c with layouts := { c.layouts with match_ := c.layouts.computeMatch c.docks }, notices := pending } := by
  unfold rematch
  dsimp only
  split
  · next same => exact ⟨c.notices, by rw [same]⟩
  · exact foldl_notify _ _ _

/-- A retire changes the layouts and the notices alone (R60). -/
theorem retireLayout_eq (c : Cabin) (n : Nat) : ∃ table pending,
    c.retireLayout n = { c with layouts := table, notices := pend pending (.layout n) (some .retired) } ∧
      table.live = c.layouts.live.filter (fun l => l.number != n) ∧ table.dirty = joinDirty c.layouts.dirty n ∧
      table.match_ = table.computeMatch c.docks := by
  unfold retireLayout
  obtain ⟨pending, rematched⟩ := rematch_eq { c with layouts :=
    { c.layouts with live := c.layouts.live.filter fun l => l.number != n, dirty := joinDirty c.layouts.dirty n } } none
  exact ⟨_, pending, congrArg (fun c => notify c (.layout n) (some .retired)) rematched, rfl, rfl, rfl⟩

end Cabin

/-! ### The checks of a retire (R53, R60) -/

theorem mayWriteLayouts_iff {cls : ReqClass} : mayWriteLayouts cls = true ↔ cls = .body ∨ cls = .gateway ∨ cls = .service := by
  cases cls <;> simp [mayWriteLayouts]

theorem ownerOk_iff {cls : ReqClass} {profile owner : Nat} :
    Cabin.ownerOk cls profile owner = true ↔ (cls = .body ∨ cls = .gateway → owner = 0 ∨ owner = profile) := by
  cases cls <;> simp [Cabin.ownerOk]

section Checks

variable {c : Cabin} {cls : ReqClass} {profile n : Nat}

theorem checkRetire_of_no_access (may : ¬ mayWriteLayouts cls = true) :
    checkRetire c cls profile n = some (refuse .refusedAccess) := by
  simp [checkRetire, may]

theorem checkRetire_of_no_number (may : mayWriteLayouts cls = true) (hn : n < 1 ∨ 24 < n) :
    checkRetire c cls profile n = some (refuse .badArgument) := by
  have outside : n = 0 ∨ 24 < n := by omega
  simp [checkRetire, may, outside]

theorem checkRetire_of_factory (may : mayWriteLayouts cls = true) (low : 1 ≤ n) (high : n ≤ 6) :
    checkRetire c cls profile n = some (refuse .protected_) := by
  have inside : ¬ (n = 0 ∨ 24 < n) := by omega
  simp [checkRetire, may, inside, Nat.lt_succ_of_le high]

theorem checkRetire_of_free (may : mayWriteLayouts cls = true) (low : 7 ≤ n) (high : n ≤ 24) (free : c.layouts.find? n = none) :
    checkRetire c cls profile n = some (refuse .notFound) := by
  have inside : ¬ (n = 0 ∨ 24 < n) := by omega
  simp [checkRetire, may, inside, Nat.not_lt.2 low, free]

theorem checkRetire_of_live (may : mayWriteLayouts cls = true) (low : 7 ≤ n) (high : n ≤ 24) {l : LayoutRec}
    (live : c.layouts.find? n = some l) : checkRetire c cls profile n =
      if Cabin.ownerOk cls profile l.owner = true then none else some (refuse .refusedAccess) := by
  have inside : ¬ (n = 0 ∨ 24 < n) := by omega
  simp [checkRetire, may, inside, Nat.not_lt.2 low, live]

end Checks

/-! ### The two ends of RETIRE_LAYOUT (R60) -/

section Exec

variable {h : ReqHdr} {s : State} {b : IdentBinding} {n : Nat}

theorem exec_retireLayout_of_refused (takes : s.Takes h b) {a : Answer} (check : checkRetire s.cab b.cls h.profile n = some a) :
    ∃ t, exec (.retireLayout h n) s = .next t ∧ s.OnlyAnswers t b 5 h a :=
  ⟨_, rfl, takes.request_onlyAnswers fun u same => by simp only [same, check]⟩

theorem exec_retireLayout_of_passed (takes : s.Takes h b) (check : checkRetire s.cab b.cls h.profile n = none) :
    ∃ t, exec (.retireLayout h n) s = .next t ∧ t.cab = s.cab.retireLayout n ∧ s.SameOutside t ∧
      s.Answered t b 5 h (okWith []) := by
  have told : (s.cab.retireLayout n).agenda = [] := by
    obtain ⟨_, _, retired, -⟩ := s.cab.retireLayout_eq n
    rw [retired]
    exact takes.told
  exact ⟨_, rfl, takes.request_modCab (f := fun c => c.retireLayout n) (fun u same => by simp only [same, check]) told⟩

end Exec

end Sys2Proof.Machine

/-! ### The statement -/

namespace Sys2Proof.Proofs

open Sys2Proof.Machine

/-- Settles O31, from the checks of a retire and the cabin a retire that passes them leaves. -/
theorem retireLayoutFreesThePosition : Obligations.RetireLayoutFreesThePosition := by
  intro h s b n takes sound mayWrite refused
  have may (hb : mayWrite) : mayWriteLayouts b.cls = true := mayWriteLayouts_iff.2 hb
  have owns (hb : b.cls = .body ∨ b.cls = .gateway) : mayWrite := hb.imp_right .inl
  refine ⟨fun hb => ?access, fun hb hn => ?argument, fun hb low high => ?factory, fun hb low high free => ?free,
    fun hb low high l hl hn shared own => ?owner, fun hb low high l hl hn own => ?retired⟩
  case access => exact exec_retireLayout_of_refused takes (checkRetire_of_no_access fun k => hb (mayWriteLayouts_iff.1 k))
  case argument => exact exec_retireLayout_of_refused takes (checkRetire_of_no_number (may hb) hn)
  case factory => exact exec_retireLayout_of_refused takes (checkRetire_of_factory (may hb) low high)
  case free =>
    exact exec_retireLayout_of_refused takes (checkRetire_of_free (may hb) low high (LayoutTable.find?_eq_none.2 free))
  case owner =>
    have denied : ¬ Cabin.ownerOk b.cls h.profile l.owner = true := fun k => (ownerOk_iff.1 k hb).elim shared own
    have check := checkRetire_of_live (c := s.cab) (profile := h.profile) (may (owns hb)) low high (sound.find?_eq_some.2 ⟨hl, hn⟩)
    exact exec_retireLayout_of_refused takes (check.trans (if_neg denied))
  case retired =>
    have check := checkRetire_of_live (c := s.cab) (profile := h.profile) (may hb) low high (sound.find?_eq_some.2 ⟨hl, hn⟩)
    obtain ⟨t, next, cab, outside, answered⟩ := exec_retireLayout_of_passed takes (check.trans (if_pos (ownerOk_iff.2 own)))
    obtain ⟨table, pending, retired, live, dirty, match_⟩ := s.cab.retireLayout_eq n
    rw [retired] at cab
    refine ⟨t, next, outside, by rw [cab], fun x => ?_, fun j => ?_, ?_, ?_, answered⟩
    · simp [cab, live]
    · simp [cab, dirty, mem_joinDirty]
    · rw [cab]
      exact match_
    · rw [cab]
      exact pend_indication _ _ _

end Sys2Proof.Proofs
end

section
/-! PROOF. The effective budget by the voltage in force (R103). -/

namespace Sys2Proof.Machine

/-! ### The rows of R103's table -/

section Rows
variable {V : Nat}

theorem effectiveBudget_of_full (B : Nat) (hV : 120 ≤ V) : effectiveBudget B V = B :=
  if_pos hV

theorem effectiveBudget_of_low (B : Nat) (hV : V ≤ 90) : effectiveBudget B V = 0 := by
  have below : ¬ 120 ≤ V := by omega
  rw [effectiveBudget, if_neg below, if_pos hV]

theorem effectiveBudget_of_band (B : Nat) (low : 91 ≤ V) (high : V ≤ 119) : effectiveBudget B V = B * (V - 90) / 30 := by
  have below : ¬ 120 ≤ V := by omega
  have above : ¬ V ≤ 90 := by omega
  rw [effectiveBudget, if_neg below, if_neg above]

end Rows

/-- In the band the limit is scaled by at most 29 thirtieths, so no row of the table exceeds it. -/
theorem effectiveBudget_le (B V : Nat) : effectiveBudget B V ≤ B := by
  rcases Nat.lt_or_ge 119 V with full | high
  · exact (effectiveBudget_of_full B full).le
  rcases Nat.lt_or_ge 90 V with low | down
  · rw [effectiveBudget_of_band B low high]
    have scale : V - 90 ≤ 30 := by omega
    exact Nat.div_le_of_le_mul (Nat.mul_comm 30 B ▸ Nat.mul_le_mul_left B scale)
  · rw [effectiveBudget_of_low B down]
    exact B.zero_le

/-! ### The voltage in force -/

theorem Port.voltageInForce_of_fresh {p : Port} (h : p.fresh.isSome = true) : p.voltageInForce = p.voltage :=
  if_pos h

theorem Port.voltageInForce_of_stale {p : Port} (h : p.fresh = none) : p.voltageInForce = 0 := by
  simp [voltageInForce, h]

end Sys2Proof.Machine

/-! ### The statement -/

namespace Sys2Proof.Proofs

open Sys2Proof.Machine

/-- Settles O24, row by row of R103's table; just after reset no frame has been taken, so none is fresh. -/
theorem effectiveBudgetFollowsTheVoltage : Obligations.EffectiveBudgetFollowsTheVoltage := by
  have unheard : State.reset.port.fresh = none := rfl
  refine ⟨fun B V => ⟨effectiveBudget_of_full B, effectiveBudget_of_low B, effectiveBudget_of_band B, effectiveBudget_le B V⟩,
    fun p => ⟨Port.voltageInForce_of_fresh, Port.voltageInForce_of_stale⟩, Port.voltageInForce_of_stale unheard, ?_⟩
  show emptyArbiter.budget = 0
  rfl

end Sys2Proof.Proofs
end

section
/-! PROOF. The four segments of a move (R122). -/

namespace Sys2Proof.Machine

/-! ### The segment at a progress -/

section Segments
variable {m : Move}

theorem Move.segment_of_homing (homing : m.kind = .homing) (x : Nat) : m.segment x = .creep :=
  if_pos homing

/-- The model ends the ramp-down where the creep starts, at `rem`; by the lengths of the rule it ends where the two ramps and the
cruise do. -/
theorem Move.segment_eq_of_lengths (other : m.kind ≠ .homing) (lengths : m.rampEff + m.cruise + m.rampEff = m.rem) (x : Nat) :
    m.segment x = if x < m.rampEff then .rampUp else if x < m.rampEff + m.cruise then .cruise
      else if x < m.rampEff + m.cruise + m.rampEff then .rampDown else .creep := by
  rw [lengths]
  exact if_neg other

theorem Move.segment_of_rampless (other : m.kind ≠ .homing) (lengths : m.rampEff + m.cruise + m.rampEff = m.rem)
    (rampless : m.rampEff = 0) (x : Nat) : m.segment x = if x < m.cruise then .cruise else .creep := by
  rw [Move.segment_eq_of_lengths other lengths, rampless, Nat.zero_add, Nat.add_zero, if_neg x.not_lt_zero]
  by_cases before : x < m.cruise
  · rw [if_pos before, if_pos before]
  · rw [if_neg before, if_neg before, if_neg before]

/-- A move no longer than its creep has neither ramp nor cruise. -/
theorem Move.segment_of_rem_eq_zero (lengths : m.rampEff + m.cruise + m.rampEff = m.rem) (short : m.rem = 0) (x : Nat) :
    m.segment x = .creep := by
  have rampless : m.rampEff = 0 := by omega
  have still : m.cruise = 0 := by omega
  by_cases homing : m.kind = .homing
  · exact Move.segment_of_homing homing x
  · rw [Move.segment_of_rampless homing lengths rampless, still, if_neg x.not_lt_zero]

end Segments

/-! ### The lengths of a new move -/

section Lengths
variable (l : Limits) (p : Profile) (a : Axis) (r : StepRef) (k : StepKind) (target : Nat)

/-- Each ramp takes at most half of what the creep leaves, and the cruise takes the remainder. -/
theorem newMove_ramps_add_cruise :
    (newMove l p a r k target).rampEff + (newMove l p a r k target).cruise + (newMove l p a r k target).rampEff =
      (newMove l p a r k target).rem := by
  simp only [newMove]
  omega

/-- The creep is cut to the distance, so the subtraction that leaves `rem` is exact. -/
theorem newMove_rem_add_creepEff :
    (newMove l p a r k target).rem + (newMove l p a r k target).creepEff = (newMove l p a r k target).distance :=
  Nat.sub_add_cancel (Nat.min_le_right _ _)

end Lengths

end Sys2Proof.Machine

/-! ### The statement -/

namespace Sys2Proof.Proofs

open Sys2Proof.Machine

/-- Settles O21: the lengths of a new move fill `rem` and then the distance, and the segments follow from the lengths. -/
theorem segmentsSumToTheDistance : Obligations.SegmentsSumToTheDistance := by
  intro l p a r k target m
  have lengths : m.rampEff + m.cruise + m.rampEff = m.rem := newMove_ramps_add_cruise l p a r k target
  have total : m.rampEff + m.cruise + m.rampEff + m.creepEff = m.distance := by
    rw [lengths]
    exact newMove_rem_add_creepEff l p a r k target
  exact ⟨rfl, rfl, rfl, rfl, rfl, total,
    fun other => Move.segment_eq_of_lengths other lengths,
    fun homing => Move.segment_of_homing homing,
    fun rampless other => Move.segment_of_rampless other lengths rampless,
    fun short => Move.segment_of_rem_eq_zero lengths short⟩

end Sys2Proof.Proofs
end
